-- ==== Sys2Proof/Word.lean ====
section
/-! DEFINITION. The word types of B62RC (00_scope.md R14, R15): a buffer byte, the 32-bit register and command word,
and the 16-bit immediate of a command word. -/

namespace Sys2Proof

/-- One byte of a buffer, and one 8-bit character code (10_state.md R45). -/
abbrev Byte := BitVec 8

/-- One 32-bit register or command word (10_state.md, 30_encoding.md R110). -/
abbrev Word := BitVec 32

/-- The immediate field IMM16 of a command word (30_encoding.md R111). -/
abbrev Imm16 := BitVec 16

end Sys2Proof
end

