-- ==== Sys2Proof/Config.lean ====
section
/-! DEFINITION. What an implementation of B62RC fixes: its build parameters (00_scope.md R8 to R12), and the two free
values the spec leaves open (70_reset_and_hazards.md R261: the power-on contents of the buffers). -/

namespace Sys2Proof

/-- The build parameters of one B62RC (00_scope.md R8, R10, R12). No register and no step writes them; the machine's
State carries them as one constant field, so that a statement about every state covers every build (log entry 1). -/
structure Build where
  /-- `N`, the maximum chunk size in bytes (R8). -/
  n : Nat
  /-- `IBUF_BYTES`, the input buffer's capacity (R10). -/
  ibufBytes : Nat
  /-- `OBUF_BYTES`, the output buffer's capacity (R10). -/
  obufBytes : Nat
  /-- `BASE`, the bus address of the block's window, a platform parameter (R12). -/
  base : Nat
deriving DecidableEq, Repr

/-- The reference build: N = 32, IBUF_BYTES = 4096, OBUF_BYTES = 8192 (R8, R10).
DESIGN CHOICE (log entry 2): the spec gives BASE no value; 0 stands here, and no statement rests on it. -/
def Build.reference : Build := { n := 32, ibufBytes := 4096, obufBytes := 8192, base := 0 }

/-- Free value: what IBUF[i] holds after the `epoch`-th power-on until something writes it
(70_reset_and_hazards.md R261, the spec's parameter `ibuf0`; log entry 3). -/
opaque Config.ibuf0 (epoch i : Nat) : Byte

/-- Free value: what OBUF[i] holds after the `epoch`-th power-on until something writes it
(70_reset_and_hazards.md R261, the spec's parameter `obuf0`; log entry 3). -/
opaque Config.obuf0 (epoch i : Nat) : Byte

end Sys2Proof
end

