-- ==== Sys2Proof/Syntax.lean ====
section
/-! DEFINITION. The commands of B62RC: one constructor per row of spec/opcode_table.json (30_encoding.md R113), and the
four reasons for which a command word is illegal (30_encoding.md R114 to R117). -/

namespace Sys2Proof

/-- One command (30_encoding.md R113). The operand of a scalar command is the word's whole IMM16 field (R112). -/
inductive Instr where
  /-- NOP, no operation (43_control.md R220). -/
  | nop
  /-- ENC, encode IBUF[0..IN_LEN) to base62 text in OBUF (41_encode.md R170). -/
  | enc
  /-- DEC, decode the text IBUF[0..IN_LEN) to bytes in OBUF (42_decode.md R190). -/
  | dec
  /-- LUTD, chunk-size table lookup of the byte length `n` (40_tables.md R154). -/
  | lutd (n : Imm16)
  /-- LUTB, inverse table lookup of the digit count `d` (40_tables.md R155). -/
  | lutb (d : Imm16)
  /-- S2D, symbol-to-digit lookup of the code `c`, whose high byte must be 0 (40_tables.md R156, 30_encoding.md R117). -/
  | s2d (c : Imm16)
  /-- D2S, digit-to-symbol lookup of the digit `k` (40_tables.md R157). -/
  | d2s (k : Imm16)
deriving DecidableEq, Repr

/-- Why a command word is illegal. Each ends its commit with ILLEGAL_COMMAND (43_control.md R221). -/
inductive IllegalWord where
  /-- OP is 0x7 to 0xF (30_encoding.md R114). -/
  | reservedOpcode
  /-- RSV is not zero (30_encoding.md R115). -/
  | reservedBits
  /-- IMM16 of a NOP, ENC or DEC word is not zero (30_encoding.md R116). -/
  | immediateNotZero
  /-- IMM16[15:8] of an S2D word is not zero (30_encoding.md R117). -/
  | symbolHighByte
deriving DecidableEq, Repr

end Sys2Proof
end

