-- ==== Sys2Proof/Machine/State.lean ====
section
/-! DEFINITION. The state of B62RC (10_state.md R30, R50), the events its environment sends it, the reasons a step can
stop, and the state after power-on reset (10_state.md R51). -/

namespace Sys2Proof.Machine

/-- The three alphabet orderings that CFG.ALPHA_SEL selects. The value 3 is never held (10_state.md R33, R34). -/
inductive AlphaSel where
  /-- ALPHA_SEL = 0: 0-9, A-Z, a-z. -/
  | lexicographic
  /-- ALPHA_SEL = 1: A-Z, a-z, 0-9. -/
  | base64like
  /-- ALPHA_SEL = 2: 0-9, a-z, A-Z. -/
  | natural
deriving DecidableEq, Repr

/-- The error kinds a commit can report (60_exceptions.md R230 to R235). -/
inductive ErrKind where
  /-- Code 1: a code outside the alphabet, from DEC or S2D (R231). -/
  | alphabetMismatch
  /-- Code 2: a group length or LUTB operand that maps to no byte length (R232). -/
  | framing
  /-- Code 3: a group value that does not fit its byte length (R233). -/
  | overflow
  /-- Code 4: a legacy-mode ENC whose IN_LEN is not a multiple of 4 (R234). -/
  | invalidInputLength
  /-- Code 5: the command word is illegal (R235). -/
  | illegalCommand
  /-- Code 6: ENC or DEC with IN_LEN > IBUF_BYTES (R235). -/
  | length
  /-- Code 7: a LUTD or D2S operand outside its domain (R235). -/
  | domain
deriving DecidableEq, Repr

/-- What a command that ends without error writes (60_exceptions.md R236). -/
inductive Effects where
  /-- NOP writes nothing. -/
  | nothing
  /-- ENC and DEC write OBUF[0..|out|) and OUT_LEN. -/
  | output (out : List Byte)
  /-- LUTD, LUTB, S2D and D2S write RESULT. -/
  | scalar (value : Nat)
deriving DecidableEq, Repr

/-- The outcome of evaluating a command: its effects, or the first error with its information (60_exceptions.md R236,
R238). -/
abbrev CmdOutcome := Except (ErrKind × Nat) Effects

/-- The contents of a buffer: the bytes written since power-on, as (index, byte) pairs. An unlisted index holds no
written byte; reading it gives the free power-on value (70_reset_and_hazards.md R261, log entries 3 and 4). -/
abbrev Memory := List Host.Cell

/-- The canonical form of a buffer of `size` bytes: indices strictly rising, each inside the buffer. -/
abbrev Memory.wf (size : Nat) (m : Memory) : Prop :=
  m.Pairwise (fun c d => c.1 < d.1) ∧ ∀ c ∈ m, c.1 < size

/-- The twelve registers of the register region (20_memory.md R81). -/
inductive Reg where
  | id | param0 | param1 | param2 | cfg | ctrl | status | cmd | inLen | outLen | result | errInfo
deriving DecidableEq, Repr

/-- Where an allowed host access lands (20_memory.md R81, R82). -/
inductive Target where
  /-- A register. -/
  | reg (r : Reg)
  /-- IBUF from index `i` on. -/
  | ibuf (i : Nat)
  /-- OBUF from index `i` on. -/
  | obuf (i : Nat)
deriving DecidableEq, Repr

/-- One host bus access (20_memory.md R84, R89). The address is the bus address; a write carries one byte per lane,
lane k at address + k, and its width is the number of lanes. -/
inductive Access where
  | read (addr width : Nat)
  | write (addr : Nat) (lanes : List Byte)
deriving DecidableEq, Repr

/-- What the environment does next (00_scope.md R19, 20_memory.md R91, 70_reset_and_hazards.md R260). -/
inductive Event where
  /-- The core gets its turn: the command in flight, if any, commits here. -/
  | core
  /-- One host bus access arrives. -/
  | host (a : Access)
  /-- The platform asserts the power-on reset input. -/
  | powerOn
deriving DecidableEq, Repr

/-- The block's response to the last host access (20_memory.md R83, R86, R89). -/
inductive Response where
  /-- No access has been answered since power-on. -/
  | none
  /-- A read returned these bytes, lane 0 first. -/
  | data (lanes : List Byte)
  /-- A write was taken (it may have been ignored). -/
  | ack
  /-- The access got a bus-error response: no data, no state change. -/
  | busError
deriving DecidableEq, Repr

/-- Why the machine stops. -/
inductive Fault where
  /-- Raised by a host access to an address below BASE or at BASE + 0x30000 and above: it is outside the block and the
  platform decides what it does (20_memory.md R83). Safe: the model stops where the platform goes on (log entry 6). -/
  | platformAddress
deriving DecidableEq, Repr

/-- Why the machine refuses an instruction. -/
inductive Refusal where
  /-- Raised by an arm of `exec` whose instruction has no meaning in the model. Safe. No arm raises it now. -/
  | notModelled (mnemonic : String)
deriving DecidableEq, Repr

/-- The state of B62RC (10_state.md R50), and the model's own fields `build`, `epoch`, `schedule` and `response`. -/
structure State where
  /-- The build parameters, constant (00_scope.md R8 to R12; log entry 1). -/
  build : Build
  /-- CFG.ALPHA_SEL (10_state.md R33, R34). -/
  alphaSel : AlphaSel
  /-- CFG.LEGACY4 (10_state.md R33). -/
  legacy4 : Bool
  /-- CTRL.IE (10_state.md R35). -/
  ie : Bool
  /-- STATUS.BUSY (10_state.md R37). -/
  busy : Bool
  /-- STATUS.DONE (10_state.md R38). -/
  done : Bool
  /-- STATUS.ERR (10_state.md R39). -/
  err : Bool
  /-- STATUS.WIGN (10_state.md R40). -/
  wign : Bool
  /-- STATUS.ERR_CODE (10_state.md R36, R39). -/
  errCode : BitVec 4
  /-- CMD (10_state.md R41). -/
  cmd : Word
  /-- IN_LEN (10_state.md R42). -/
  inLen : Word
  /-- OUT_LEN (10_state.md R43). -/
  outLen : Word
  /-- RESULT (10_state.md R44). -/
  result : Word
  /-- ERR_INFO (10_state.md R39). -/
  errInfo : Word
  /-- IBUF: the bytes written since power-on (10_state.md R45). -/
  ibuf : Memory
  /-- OBUF: the bytes written since power-on (10_state.md R46). -/
  obuf : Memory
  /-- The model's own: how many power-on resets have happened since the first; it selects the free power-on contents
  of the buffers (log entry 3). -/
  epoch : Nat
  /-- The model's own: what the environment does next, in order; when it is empty the core has its turn (20_memory.md
  R91, 70_reset_and_hazards.md R268; log entry 5). -/
  schedule : List Event
  /-- The model's own: the block's response to the last host access (log entry 7). -/
  response : Response
deriving DecidableEq, Repr

/-- The machine right after power-on reset (10_state.md R51, 70_reset_and_hazards.md R260, R261): every register at its
reset value, no buffer byte written, nothing scheduled. The build is the reference build. -/
def State.reset : State where
  build := Build.reference
  alphaSel := .lexicographic
  legacy4 := false
  ie := false
  busy := false
  done := false
  err := false
  wign := false
  errCode := 0#4
  cmd := 0#32
  inLen := 0#32
  outLen := 0#32
  result := 0#32
  errInfo := 0#32
  ibuf := []
  obuf := []
  epoch := 0
  schedule := []
  response := .none

end Sys2Proof.Machine
end

