-- ==== Sys2Proof/Machine/Alphabet.lean ====
section
/-! DEFINITION. The alphabet ROMs in both directions (40_tables.md R147 to R153), in the closed forms of R147 and R151. -/

namespace Sys2Proof.Machine

/-- The 2-bit field value of an ordering (10_state.md R33). -/
def alphaCode : AlphaSel → BitVec 2
  | .lexicographic => 0#2
  | .base64like => 1#2
  | .natural => 2#2

/-- ROM_ALPHA[sel][k], the symbol code of digit k, for k in 0..61 (40_tables.md R147, codes R153). -/
def romAlpha (sel : AlphaSel) (k : Nat) : Byte :=
  match sel with
  | .lexicographic =>
    if k < 10 then BitVec.ofNat 8 (0x30 + k)
    else if k < 36 then BitVec.ofNat 8 (0x41 + (k - 10)) else BitVec.ofNat 8 (0x61 + (k - 36))
  | .base64like =>
    if k < 26 then BitVec.ofNat 8 (0x41 + k)
    else if k < 52 then BitVec.ofNat 8 (0x61 + (k - 26)) else BitVec.ofNat 8 (0x30 + (k - 52))
  | .natural =>
    if k < 10 then BitVec.ofNat 8 (0x30 + k)
    else if k < 36 then BitVec.ofNat 8 (0x61 + (k - 10)) else BitVec.ofNat 8 (0x41 + (k - 36))

/-- The first digit that an ordering gives to '0'..'9', to 'A'..'Z' and to 'a'..'z' (40_tables.md R151). -/
def alphaBases : AlphaSel → Nat × Nat × Nat
  | .lexicographic => (0, 10, 36)
  | .base64like => (52, 0, 26)
  | .natural => (0, 36, 10)

/-- ROM_SYM[sel][c], the digit of the 8-bit code c, none where the spec says INVALID (40_tables.md R151). -/
def romSym (sel : AlphaSel) (c : Byte) : Option Nat :=
  if 0x30 ≤ c.toNat ∧ c.toNat ≤ 0x39 then some (c.toNat - 0x30 + (alphaBases sel).1)
  else if 0x41 ≤ c.toNat ∧ c.toNat ≤ 0x5A then some (c.toNat - 0x41 + (alphaBases sel).2.1)
  else if 0x61 ≤ c.toNat ∧ c.toNat ≤ 0x7A then some (c.toNat - 0x61 + (alphaBases sel).2.2)
  else none

end Sys2Proof.Machine
end

