-- ==== Sys2Proof/Decode.lean ====
section
/-! DEFINITION. The command word: its fields, the decoder (30_encoding.md R119), the encoder (R111, R120), and the byte
lanes on which the host bus carries a 32-bit word (20_memory.md R84). -/

namespace Sys2Proof

/-- OP = word[3:0] (30_encoding.md R111). -/
def opField (w : Word) : BitVec 4 := w.extractLsb' 0 4

/-- RSV = word[15:4] (30_encoding.md R111). -/
def rsvField (w : Word) : BitVec 12 := w.extractLsb' 4 12

/-- IMM16 = word[31:16] (30_encoding.md R111). -/
def immField (w : Word) : Imm16 := w.extractLsb' 16 16

/-- IMM16[15:8], which S2D requires to be zero (30_encoding.md R117). -/
def symbolHighField (imm : Imm16) : Byte := imm.extractLsb' 8 8

/-- The decode function, total on every 32-bit word: a command, or the reason the word is illegal (30_encoding.md
R113 to R119). The checks stand in the order of R119. -/
def decode (w : Word) : Except IllegalWord Instr :=
  if 7 ≤ (opField w).toNat then .error .reservedOpcode
  else if rsvField w ≠ 0#12 then .error .reservedBits
  else
    match (opField w).toNat with
    | 0 => if immField w ≠ 0#16 then .error .immediateNotZero else .ok .nop
    | 1 => if immField w ≠ 0#16 then .error .immediateNotZero else .ok .enc
    | 2 => if immField w ≠ 0#16 then .error .immediateNotZero else .ok .dec
    | 3 => .ok (.lutd (immField w))
    | 4 => .ok (.lutb (immField w))
    | 5 => if symbolHighField (immField w) ≠ 0#8 then .error .symbolHighByte else .ok (.s2d (immField w))
    | 6 => .ok (.d2s (immField w))
    | _ => .error .reservedOpcode

/-- A word of format C with RSV = 0: OP in [3:0] and IMM16 in [31:16] (30_encoding.md R111). -/
def formatC (op : BitVec 4) (imm : Imm16) : Word := imm ++ 0#12 ++ op

/-- The operation code of a command (30_encoding.md R113). -/
def opcode : Instr → BitVec 4
  | .nop => 0x0#4
  | .enc => 0x1#4
  | .dec => 0x2#4
  | .lutd _ => 0x3#4
  | .lutb _ => 0x4#4
  | .s2d _ => 0x5#4
  | .d2s _ => 0x6#4

/-- The immediate of a command: its operand, and 0 where IMM16 is unused (30_encoding.md R112). -/
def immediate : Instr → Imm16
  | .nop => 0#16
  | .enc => 0#16
  | .dec => 0#16
  | .lutd n => n
  | .lutb d => d
  | .s2d c => c
  | .d2s k => k

/-- The command word `OP | (imm << 16)` (30_encoding.md R120). -/
def encode (i : Instr) : Word := formatC (opcode i) (immediate i)

/-- Byte `k` of a word: the data bits [8k+7:8k], which carry the byte at offset A + k (20_memory.md R84). -/
def lane (w : Word) (k : Nat) : Byte := w.extractLsb' (8 * k) 8

/-- The four lanes of a word, the byte at the lowest offset first (20_memory.md R84). -/
def lanesOfWord (w : Word) : List Byte := [lane w 0, lane w 1, lane w 2, lane w 3]

/-- The number that lanes spell, the first lane least significant (20_memory.md R84). -/
def lanesValue : List Byte → Nat
  | [] => 0
  | b :: rest => b.toNat + 256 * lanesValue rest

/-- The 32-bit word that four lanes carry (20_memory.md R84). -/
def wordOfLanes (lanes : List Byte) : Word := BitVec.ofNat 32 (lanesValue lanes)

/-- The command word that the opcode table's number `w` of `nbits` bits stands for, every bit above `nbits` zero; none
when it does not fit the one 32-bit format (30_encoding.md R110). -/
def tableWord (nbits w : Nat) : Option Word :=
  if w % 2 ^ nbits < 2 ^ 32 then some (BitVec.ofNat 32 (w % 2 ^ nbits)) else none

/-- What the decoder reads from a word of spec/opcode_table.json, laid out on the four byte lanes of a CMD write and
read back from them. -/
def decodeTableWord (nbits w : Nat) : Option Instr :=
  match tableWord nbits w with
  | none => none
  | some x => (decode (wordOfLanes (lanesOfWord x))).toOption

end Sys2Proof
end

