-- ==== Sys2Proof/Machine/Ops.lean ====
section
/-! DEFINITION. The shared operations: bytes of the buffers, the command lifecycle (accept, commit, error entry,
60_exceptions.md R236 to R243) and the two resets (70_reset_and_hazards.md R260 to R263). -/

namespace Sys2Proof.Machine

/-! ### Buffer memory -/

/-- The byte written at index `a`, none when nothing has been written there since power-on. -/
def Memory.read? : Memory → Nat → Option Byte
  | [], _ => none
  | (x, y) :: rest, a => if x = a then some y else Memory.read? rest a

/-- Write one byte; indices stay strictly rising. -/
def Memory.write : Memory → Nat → Byte → Memory
  | [], a, b => [(a, b)]
  | (x, y) :: rest, a, b =>
    if a < x then (a, b) :: (x, y) :: rest
    else if a = x then (a, b) :: rest
    else (x, y) :: Memory.write rest a b

/-- Write a byte sequence at indices a, a + 1, and so on. -/
def Memory.writeAll : Memory → Nat → List Byte → Memory
  | m, _, [] => m
  | m, a, b :: rest => Memory.writeAll (Memory.write m a b) (a + 1) rest

/-- IBUF[i] (10_state.md R45): the written byte, or the free power-on value (70_reset_and_hazards.md R261). -/
def State.ibufAt (s : State) (i : Nat) : Byte := (Memory.read? s.ibuf i).getD (Config.ibuf0 s.epoch i)

/-- OBUF[i] (10_state.md R46): the written byte, or the free power-on value (70_reset_and_hazards.md R261). -/
def State.obufAt (s : State) (i : Nat) : Byte := (Memory.read? s.obuf i).getD (Config.obuf0 s.epoch i)

/-- A host write of IBUF from index `i` on (10_state.md R45). -/
def State.writeIbuf (s : State) (i : Nat) (bytes : List Byte) : State :=
  { s with ibuf := Memory.writeAll s.ibuf i bytes }

/-! ### Accept -/

/-- Accept of the command word `w` (60_exceptions.md R240). -/
def State.accept (s : State) (w : Word) : State :=
  { s with cmd := w, busy := true, done := false, err := false, errCode := 0#4, errInfo := 0#32 }

/-- A host write that is ignored because STATUS.BUSY = 1: it only sets STATUS.WIGN (70_reset_and_hazards.md R262). -/
def State.ignoreWrite (s : State) : State := { s with wign := true }

/-! ### Commit -/

/-- The number of an error kind in STATUS.ERR_CODE (60_exceptions.md R230). -/
def ErrKind.code : ErrKind → BitVec 4
  | .alphabetMismatch => 1#4
  | .framing => 2#4
  | .overflow => 3#4
  | .invalidInputLength => 4#4
  | .illegalCommand => 5#4
  | .length => 6#4
  | .domain => 7#4

/-- Error entry, shared by every error (60_exceptions.md R236, R239): the error record is written, OUT_LEN and RESULT
become 0, and nothing else changes. There is no vector, no saved return state and no mode. -/
def State.raise (s : State) (k : ErrKind) (info : Nat) : State :=
  { s with err := true, errCode := k.code, errInfo := BitVec.ofNat 32 info, outLen := 0#32, result := 0#32 }

/-- Apply the effects of a command that ends without error (60_exceptions.md R236, 10_state.md R43, R44, R46). -/
def State.applyEffects (s : State) : Effects → State
  | .nothing => s
  | .output out => { s with obuf := Memory.writeAll s.obuf 0 out, outLen := BitVec.ofNat 32 out.length }
  | .scalar v => { s with result := BitVec.ofNat 32 v }

/-- The end of every commit: STATUS.BUSY <- 0 and STATUS.DONE <- 1 (60_exceptions.md R236). -/
def State.finish (s : State) : State := { s with busy := false, done := true }

/-- The commit of a command whose evaluation gave `o` (60_exceptions.md R236). -/
def State.commit (s : State) (o : CmdOutcome) : State :=
  match o with
  | .ok e => (s.applyEffects e).finish
  | .error (k, info) => (s.raise k info).finish

/-! ### Acknowledging an error

There is no return from an error (60_exceptions.md R243): the error record stays until the next accept or a reset, and
the host acknowledges completion by writing 1 to STATUS.DONE. -/

/-- A host write of STATUS: bit 1 clears DONE and bit 3 clears WIGN, every other bit is ignored (10_state.md R36, R38,
R40). -/
def State.writeStatus (s : State) (w : Word) : State :=
  { s with done := s.done && !w.getLsbD 1, wign := s.wign && !w.getLsbD 3 }

/-! ### Resets -/

/-- Soft reset (70_reset_and_hazards.md R263): a command in flight is abandoned, every register takes its reset value, and
the buffers are kept. -/
def State.softReset (s : State) : State :=
  { s with
    alphaSel := .lexicographic, legacy4 := false, ie := false,
    busy := false, done := false, err := false, wign := false, errCode := 0#4,
    cmd := 0#32, inLen := 0#32, outLen := 0#32, result := 0#32, errInfo := 0#32 }

/-- Power-on reset (70_reset_and_hazards.md R260, R261, 10_state.md R51): the registers of `State.reset`, and buffers whose
contents are free again. The build and what the environment does next are not the block's to reset. -/
def State.powerOnReset (s : State) : State :=
  { State.reset with build := s.build, epoch := s.epoch + 1, schedule := s.schedule }

end Sys2Proof.Machine
end

