-- ==== Sys2Proof/Machine/Tables.lean ====
section
/-! DEFINITION. The chunk-boundary manager's size tables and the lengths that follow from them (40_tables.md R140 to
R146, 41_encode.md R176, 42_decode.md R199). Every function is a pure function of the build's N. -/

namespace Sys2Proof.Machine

/-- The least d' >= d with 62^d' >= target, looked for at most `fuel` steps up (40_tables.md R141). -/
def leastDigits (target : Nat) : Nat → Nat → Nat
  | 0, d => d
  | fuel + 1, d => if target ≤ 62 ^ d then d else leastDigits target fuel (d + 1)

/-- DIGITS(n): the least d with 62^d >= 2^(8n) (40_tables.md R141); DIGITS(0) = 0. Two digits per byte are always
enough, so 2n steps find it. -/
def digits (n : Nat) : Nat := leastDigits (2 ^ (8 * n)) (2 * n) 0

/-- D_MAX = DIGITS(N) (00_scope.md R9). -/
def dMax (n : Nat) : Nat := digits n

/-- BYTES_OF(d): the byte length in 1..N whose groups have d digits, if there is one (40_tables.md R144). -/
def bytesOf (n d : Nat) : Option Nat := (List.range' 1 n).find? (fun b => digits b == d)

/-- ROM_DIGITS[b] for 1 <= b <= N, none outside the table (40_tables.md R141, R154). -/
def romDigits (n b : Nat) : Option Nat := if 1 ≤ b ∧ b ≤ n then some (digits b) else none

/-- ENC_LEN(L), the output length of an encode of L bytes (41_encode.md R176). -/
def encLen (n l : Nat) : Nat := l / n * dMax n + digits (l % n)

/-- DEC_LEN(L), the output length of a decode of L symbols that succeeds (42_decode.md R199). -/
def decLen (n l : Nat) : Nat := l / dMax n * n + (bytesOf n (l % dMax n)).getD 0

end Sys2Proof.Machine
end

