-- ==== Sys2Proof/Machine/Flags.lean ====
section
/-! DEFINITION. The flags and the register words a host reads: STATUS, CFG, CTRL, the identification and parameter
registers (10_state.md R31 to R44), the writes of CFG and CTRL (R33 to R35), and the interrupt output (60_exceptions.md
R241). -/

namespace Sys2Proof.Machine

/-- ID (10_state.md R31). -/
def idWord : Word := 0x00620007#32

/-- PARAM0 = D_MAX in [31:16] and N in [15:0] (10_state.md R32). -/
def param0Word (b : Build) : Word := BitVec.ofNat 16 (dMax b.n) ++ BitVec.ofNat 16 b.n

/-- CFG: ALPHA_SEL in [1:0], LEGACY4 in [2], the rest zero (10_state.md R33). -/
def State.cfgWord (s : State) : Word := 0#29 ++ BitVec.ofBool s.legacy4 ++ alphaCode s.alphaSel

/-- CTRL: IE in [0], the rest zero; SRST reads 0 (10_state.md R35). -/
def State.ctrlWord (s : State) : Word := 0#31 ++ BitVec.ofBool s.ie

/-- STATUS: BUSY [0], DONE [1], ERR [2], WIGN [3], ERR_CODE [11:8], the rest zero (10_state.md R36). -/
def State.statusWord (s : State) : Word :=
  0#20 ++ s.errCode ++ 0#4 ++ BitVec.ofBool s.wign ++ BitVec.ofBool s.err ++ BitVec.ofBool s.done ++
    BitVec.ofBool s.busy

/-- The interrupt output IRQ = CTRL.IE AND STATUS.DONE, a level (60_exceptions.md R241). -/
def State.irq (s : State) : Bool := s.ie && s.done

/-- The ordering that a write of ALPHA_SEL leaves: the written one, and the old one when 3 is written (10_state.md
R34). -/
def selectAlpha (old : AlphaSel) (field : BitVec 2) : AlphaSel :=
  if field = 0#2 then .lexicographic
  else if field = 1#2 then .base64like
  else if field = 2#2 then .natural
  else old

/-- A host write of CFG while BUSY = 0 (10_state.md R33, R34). -/
def State.writeCfg (s : State) (w : Word) : State :=
  { s with alphaSel := selectAlpha s.alphaSel (w.extractLsb' 0 2), legacy4 := w.getLsbD 2 }

/-- A host write of CTRL: SRST = 1 performs the soft reset and discards IE, else IE is written (10_state.md R35). -/
def State.writeCtrl (s : State) (w : Word) : State :=
  if w.getLsbD 31 then s.softReset else { s with ie := w.getLsbD 0 }

/-- A host write of IN_LEN while BUSY = 0: all 32 bits (10_state.md R42). -/
def State.writeInLen (s : State) (w : Word) : State := { s with inLen := w }

end Sys2Proof.Machine
end

