-- ==== Sys2Proof/Machine/Operands.lean ====
section
/-! DEFINITION. The operand forms of the commands (30_encoding.md R112): the input sequence IBUF[0..IN_LEN) with its
length check, and the immediates of the scalar commands with their domain checks (40_tables.md R154 to R157). -/

namespace Sys2Proof.Machine

/-- The input of ENC and DEC: IBUF[0..IN_LEN) (10_state.md R42, R45). -/
def State.input (s : State) : List Byte := (List.range s.inLen.toNat).map s.ibufAt

/-- The input of ENC and DEC behind its length check: LENGTH when IN_LEN > IBUF_BYTES (60_exceptions.md R235, R238). -/
def State.checkedInput (s : State) : Except (ErrKind × Nat) (List Byte) :=
  if s.build.ibufBytes < s.inLen.toNat then .error (.length, 0) else .ok s.input

/-- The result of a table or ROM lookup, or the error that an operand without an entry raises (40_tables.md R154 to
R157). -/
def lookupOutcome (entry : Option Nat) (k : ErrKind) : CmdOutcome :=
  match entry with
  | some v => .ok (.scalar v)
  | none => .error (k, 0)

/-- The symbol code of digit `k` when k <= 61 (40_tables.md R157). -/
def alphaEntry (sel : AlphaSel) (k : Nat) : Option Nat := if k ≤ 61 then some (romAlpha sel k).toNat else none

end Sys2Proof.Machine
end

