-- ==== Sys2Proof/Machine/Bus.lean ====
section
/-! DEFINITION. The host bus: the address map (20_memory.md R80 to R83), widths and alignment (R86), byte lanes (R84), and
the effect of each access, with the busy window (70_reset_and_hazards.md R262). -/

namespace Sys2Proof.Machine

/-- The size of the block's window (20_memory.md R80). -/
def windowBytes : Nat := 0x30000

/-- The offset of IBUF[0] (20_memory.md R82). -/
def ibufOffset : Nat := 0x10000

/-- The offset of OBUF[0] (20_memory.md R82). -/
def obufOffset : Nat := 0x20000

/-- The offset of a register (20_memory.md R81). -/
def regOffset : Reg → Nat
  | .id => 0x000
  | .param0 => 0x004
  | .param1 => 0x008
  | .param2 => 0x00C
  | .cfg => 0x010
  | .ctrl => 0x014
  | .status => 0x018
  | .cmd => 0x01C
  | .inLen => 0x020
  | .outLen => 0x024
  | .result => 0x028
  | .errInfo => 0x02C

/-- The registers in the order of their offsets (20_memory.md R81). -/
def allRegs : List Reg :=
  [.id, .param0, .param1, .param2, .cfg, .ctrl, .status, .cmd, .inLen, .outLen, .result, .errInfo]

/-- The register at an offset; none at an offset that is misaligned or unmapped (20_memory.md R81). -/
def regAt (off : Nat) : Option Reg := allRegs.find? (fun r => regOffset r == off)

/-- An access of `width` bytes at index `i` of a buffer of `size` bytes is allowed: 1, 2 or 4 bytes, aligned, and inside
the buffer (20_memory.md R82, R86). -/
def bufferAllows (size i width : Nat) : Bool :=
  (width == 1 || width == 2 || width == 4) && i % width == 0 && decide (i + width ≤ size)

/-- Where an access of `width` bytes at an offset lands; none when it gets a bus error (20_memory.md R81 to R83, R86). -/
def target (b : Build) (off width : Nat) : Option Target :=
  if off < ibufOffset then
    if width = 4 then (regAt off).map .reg else none
  else if off < obufOffset then
    if bufferAllows b.ibufBytes (off - ibufOffset) width then some (.ibuf (off - ibufOffset)) else none
  else
    if bufferAllows b.obufBytes (off - obufOffset) width then some (.obuf (off - obufOffset)) else none

/-- The offset of a bus address in the block's window; none outside it (20_memory.md R80, R83). -/
def windowOffset (b : Build) (addr : Nat) : Option Nat :=
  if b.base ≤ addr ∧ addr < b.base + windowBytes then some (addr - b.base) else none

/-- The word a host reads from a register; no read has a side effect (20_memory.md R87, R89). -/
def State.readReg (s : State) : Reg → Word
  | .id => idWord
  | .param0 => param0Word s.build
  | .param1 => BitVec.ofNat 32 s.build.ibufBytes
  | .param2 => BitVec.ofNat 32 s.build.obufBytes
  | .cfg => s.cfgWord
  | .ctrl => s.ctrlWord
  | .status => s.statusWord
  | .cmd => s.cmd
  | .inLen => s.inLen
  | .outLen => s.outLen
  | .result => s.result
  | .errInfo => s.errInfo

/-- The bytes a read returns, the byte at the lowest offset first (20_memory.md R84, R89). -/
def State.readTarget (s : State) (width : Nat) : Target → List Byte
  | .reg r => lanesOfWord (s.readReg r)
  | .ibuf i => (List.range' i width).map s.ibufAt
  | .obuf i => (List.range' i width).map s.obufAt

/-- A host write of a register (20_memory.md R87). CMD, CFG and IN_LEN are ignored while BUSY = 1, STATUS and CTRL are
always honoured, read-only registers ignore every write (70_reset_and_hazards.md R262). -/
def State.writeReg (s : State) (r : Reg) (w : Word) : State :=
  match r with
  | .id => s
  | .param0 => s
  | .param1 => s
  | .param2 => s
  | .cfg => if s.busy then s.ignoreWrite else s.writeCfg w
  | .ctrl => s.writeCtrl w
  | .status => s.writeStatus w
  | .cmd => if s.busy then s.ignoreWrite else s.accept w
  | .inLen => if s.busy then s.ignoreWrite else s.writeInLen w
  | .outLen => s
  | .result => s
  | .errInfo => s

/-- A host write where it lands: OBUF ignores it, IBUF takes it while BUSY = 0 (20_memory.md R88, 10_state.md R45,
70_reset_and_hazards.md R262). -/
def State.writeTarget (s : State) (lanes : List Byte) : Target → State
  | .reg r => s.writeReg r (wordOfLanes lanes)
  | .ibuf i => if s.busy then s.ignoreWrite else s.writeIbuf i lanes
  | .obuf _ => s

/-- The block answers an access. -/
def State.respond (s : State) (r : Response) : State := { s with response := r }

/-- A read at an offset of the window: data, or a bus error (20_memory.md R83, R86, R89). -/
def State.busRead (s : State) (off width : Nat) : State :=
  match target s.build off width with
  | none => s.respond .busError
  | some t => s.respond (.data (s.readTarget width t))

/-- A write at an offset of the window: its effect, or a bus error that changes no state (20_memory.md R83, R86, R89). -/
def State.busWrite (s : State) (off : Nat) (lanes : List Byte) : State :=
  match target s.build off lanes.length with
  | none => s.respond .busError
  | some t => (s.writeTarget lanes t).respond .ack

/-- The bus address of an access. -/
def Access.addr : Access → Nat
  | .read a _ => a
  | .write a _ => a

/-- One host access, one atomic event (20_memory.md R89, R91). An address outside the window is the platform's
(20_memory.md R83; log entry 6). -/
def hostAccess (a : Access) (s : State) : Host.Outcome State Fault Refusal :=
  match windowOffset s.build a.addr with
  | none => .fault .platformAddress
  | some off =>
    match a with
    | .read _ width => .next (s.busRead off width)
    | .write _ lanes => .next (s.busWrite off lanes)

end Sys2Proof.Machine
end

