-- ==== Sys2Proof/Machine/Control.lean ====
section
/-! DEFINITION. NOP and the commit of an illegal command word (43_control.md R220, R221). -/

namespace Sys2Proof.Machine

/-- NOP (43_control.md R220): the commit with no effect. -/
def execNop (s : State) : Host.Outcome State Fault Refusal := .next (s.commit (.ok .nothing))

/-- The commit of an illegal command word (43_control.md R221): ILLEGAL_COMMAND with ERR_INFO 0, whatever the reason. -/
def commitIllegal (s : State) : Host.Outcome State Fault Refusal := .next (s.commit (.error (.illegalCommand, 0)))

end Sys2Proof.Machine
end

