-- ==== Sys2Proof/Machine/Radix.lean ====
section
/-! DEFINITION. The variable-width radix converter on exact naturals: the value functions of 00_scope.md R17 and the
cutting of a sequence into chunks or groups (41_encode.md R172, 42_decode.md R192). Exact naturals stand for the
accumulator ACC of at least W_ACC bits, which never wraps (00_scope.md R11, 42_decode.md R194). -/

namespace Sys2Proof.Machine

/-- The value of a digit sequence in base `base`, most significant digit first. -/
def radixValue (base : Nat) (ds : List Nat) : Nat := ds.foldl (fun v d => v * base + d) 0

/-- The `k` low digits of `v` in base `base`, most significant first: digit k-1 is v mod base, and the digits before it
are those of v div base (the loop of 41_encode.md R173). -/
def radixDigits (base : Nat) : Nat → Nat → List Nat
  | 0, _ => []
  | k + 1, v => radixDigits base k (v / base) ++ [v % base]

/-- BE(c), the big-endian value of a byte sequence (00_scope.md R17). -/
def beValue (c : List Byte) : Nat := radixValue 256 (c.map BitVec.toNat)

/-- BE_BYTES(v, b), the b-byte big-endian sequence of v (00_scope.md R17). -/
def beBytes (v b : Nat) : List Byte := (radixDigits 256 b v).map (BitVec.ofNat 8)

/-- DIGITS62(v, k), the k-digit base-62 sequence of v, most significant first (00_scope.md R17). -/
def digits62 (v k : Nat) : List Nat := radixDigits 62 k v

/-- VAL62(ds), the value of a base-62 digit sequence (00_scope.md R17, 42_decode.md R194). -/
def val62 (ds : List Nat) : Nat := radixValue 62 ds

/-- Cut a sequence front to back into pieces of `k` elements, the last one shorter, with `fuel` pieces at most. -/
def cut {α : Type} (k : Nat) : Nat → List α → List (List α)
  | 0, _ => []
  | _ + 1, [] => []
  | fuel + 1, x :: xs => (x :: xs).take k :: cut k fuel ((x :: xs).drop k)

/-- The chunks of an input (41_encode.md R172), and the groups of a text (42_decode.md R192): pieces of `k` elements from
the front, the last with what remains. -/
def pieces {α : Type} (k : Nat) (xs : List α) : List (List α) := cut k xs.length xs

end Sys2Proof.Machine
end

