-- ==== Sys2Proof/Machine/DecodeText.lean ====
section
/-! DEFINITION. DEC, base62 text to bytes (42_decode.md R190 to R197). -/

namespace Sys2Proof.Machine

/-- The index of the first code outside the alphabet (42_decode.md R191). -/
def firstForeign (sel : AlphaSel) (codes : List Byte) : Option Nat :=
  codes.findIdx? (fun c => (romSym sel c).isNone)

/-- The value of a group of valid codes (42_decode.md R194). -/
def groupValue (sel : AlphaSel) (group : List Byte) : Nat := val62 (group.map (fun c => (romSym sel c).getD 0))

/-- The bytes of one group that starts at index `p`: the framing check, the range check, the serialisation
(42_decode.md R193 to R196). -/
def decodeGroup (n : Nat) (sel : AlphaSel) (p : Nat) (group : List Byte) : Except (ErrKind × Nat) (List Byte) :=
  match bytesOf n group.length with
  | none => .error (.framing, p)
  | some b =>
    if 2 ^ (8 * b) ≤ groupValue sel group then .error (.overflow, p) else .ok (beBytes (groupValue sel group) b)

/-- The bytes of the groups in order, the first starting at index `p`; the first group that fails ends it
(42_decode.md R190, R197, 60_exceptions.md R238). -/
def decodeGroups (n : Nat) (sel : AlphaSel) : Nat → List (List Byte) → Except (ErrKind × Nat) (List Byte)
  | _, [] => .ok []
  | p, g :: rest =>
    match decodeGroup n sel p g with
    | .error e => .error e
    | .ok out =>
      match decodeGroups n sel (p + g.length) rest with
      | .error e => .error e
      | .ok more => .ok (out ++ more)

/-- The bytes of a symbol string: alphabet validation of the whole string, then its groups of at most D_MAX symbols
(42_decode.md R191, R192). -/
def decodeText (n : Nat) (sel : AlphaSel) (codes : List Byte) : Except (ErrKind × Nat) (List Byte) :=
  match firstForeign sel codes with
  | some i => .error (.alphabetMismatch, i)
  | none => decodeGroups n sel 0 (pieces (dMax n) codes)

/-- The evaluation of DEC (42_decode.md R190): LENGTH, then the text. LEGACY4 is not read (R201). -/
def decOutcome (s : State) : CmdOutcome :=
  match s.checkedInput with
  | .error e => .error e
  | .ok codes =>
    match decodeText s.build.n s.alphaSel codes with
    | .error e => .error e
    | .ok out => .ok (.output out)

/-- DEC (42_decode.md R190). -/
def execDec (s : State) : Host.Outcome State Fault Refusal := .next (s.commit (decOutcome s))

end Sys2Proof.Machine
end

