-- ==== Sys2Proof/Machine/Encode.lean ====
section
/-! DEFINITION. ENC, bytes to base62 text (41_encode.md R170 to R175). -/

namespace Sys2Proof.Machine

/-- The group of one chunk: DIGITS(n) symbols, left-padded with the zero-symbol (41_encode.md R173, R174). -/
def encodeChunk (sel : AlphaSel) (chunk : List Byte) : List Byte :=
  (digits62 (beValue chunk) (digits chunk.length)).map (romAlpha sel)

/-- The text of a byte sequence: the groups of its chunks of at most N bytes, in order (41_encode.md R172, R175). -/
def encodeText (n : Nat) (sel : AlphaSel) (bytes : List Byte) : List Byte :=
  (pieces n bytes).flatMap (encodeChunk sel)

/-- The evaluation of ENC (41_encode.md R170, R171): LENGTH, then the legacy length check, then the text. -/
def encOutcome (s : State) : CmdOutcome :=
  match s.checkedInput with
  | .error e => .error e
  | .ok bytes =>
    if s.legacy4 = true ∧ s.inLen.toNat % 4 ≠ 0 then .error (.invalidInputLength, 0)
    else .ok (.output (encodeText s.build.n s.alphaSel bytes))

/-- ENC (41_encode.md R170). -/
def execEnc (s : State) : Host.Outcome State Fault Refusal := .next (s.commit (encOutcome s))

end Sys2Proof.Machine
end

