-- ==== Sys2Proof/Machine/Scalar.lean ====
section
/-! DEFINITION. The four scalar commands LUTD, LUTB, S2D and D2S (40_tables.md R154 to R157). Each is the commit of one
lookup. -/

namespace Sys2Proof.Machine

/-- LUTD (40_tables.md R154): DIGITS(n) for 1 <= n <= N, else DOMAIN. -/
def execLutd (n : Imm16) (s : State) : Host.Outcome State Fault Refusal :=
  .next (s.commit (lookupOutcome (romDigits s.build.n n.toNat) .domain))

/-- LUTB (40_tables.md R155): BYTES_OF(d), or FRAMING when there is none. -/
def execLutb (d : Imm16) (s : State) : Host.Outcome State Fault Refusal :=
  .next (s.commit (lookupOutcome (bytesOf s.build.n d.toNat) .framing))

/-- S2D (40_tables.md R156): the digit of the code c, or ALPHABET_MISMATCH. The check of IMM16[15:8] is the decode's and
comes first (30_encoding.md R117); an operand the decoder never gives raises the same ILLEGAL_COMMAND here
(DEDUCED, log entry 11). -/
def execS2d (c : Imm16) (s : State) : Host.Outcome State Fault Refusal :=
  .next (s.commit
    (if symbolHighField c ≠ 0#8 then .error (.illegalCommand, 0)
     else lookupOutcome (romSym s.alphaSel (c.extractLsb' 0 8)) .alphabetMismatch))

/-- D2S (40_tables.md R157): the symbol code of digit k, or DOMAIN when k > 61. -/
def execD2s (k : Imm16) (s : State) : Host.Outcome State Fault Refusal :=
  .next (s.commit (lookupOutcome (alphaEntry s.alphaSel k.toNat) .domain))

end Sys2Proof.Machine
end

