-- ==== Sys2Proof/Machine/Dispatch.lean ====
section
/-! DEFINITION. The meaning of each command: its commit (60_exceptions.md R236). One arm per constructor. -/

namespace Sys2Proof.Machine

def exec (i : Instr) (s : State) : Host.Outcome State Fault Refusal :=
  match i with
  | .nop => Sys2Proof.Machine.execNop s
  | .enc => Sys2Proof.Machine.execEnc s
  | .dec => Sys2Proof.Machine.execDec s
  | .lutd n => Sys2Proof.Machine.execLutd n s
  | .lutb d => Sys2Proof.Machine.execLutb d s
  | .s2d c => Sys2Proof.Machine.execS2d c s
  | .d2s k => Sys2Proof.Machine.execD2s k s

end Sys2Proof.Machine
end

