-- ==== Sys2Proof/Machine/Commit.lean ====
section
/-! DEFINITION. The core's one step (60_exceptions.md R236): it decodes the word in CMD and commits the command. -/

namespace Sys2Proof.Machine

/-- The commit of the command in flight: the word in CMD is decoded at commit (30_encoding.md R119, 10_state.md R41). -/
def commitStep (s : State) : Host.Outcome State Fault Refusal :=
  match decode s.cmd with
  | .ok i => exec i s
  | .error _ => commitIllegal s

/-- The core's turn: the commit is enabled while BUSY = 1; an idle core keeps all state (60_exceptions.md R236, R249). -/
def coreTurn (s : State) : Host.Outcome State Fault Refusal :=
  if s.busy then commitStep s else .next s

/-- Make the core move next: an empty schedule already gives it the turn, otherwise one turn goes in front. -/
def State.coreNext (s : State) : State :=
  match s.schedule with
  | [] => s
  | _ :: _ => { s with schedule := .core :: s.schedule }

/-- The command word that the number `w` of `nbits` bits stands for, accepted by an idle block, with the core to move
next (60_exceptions.md R240). -/
def State.issueWord (s : State) (nbits w : Nat) : State := (s.accept (BitVec.ofNat 32 (w % 2 ^ nbits))).coreNext

end Sys2Proof.Machine
end

