-- ==== Sys2Proof/Machine/Step.lean ====
section
/-! DEFINITION. One step: the next event of the total order of host accesses, commits and resets (20_memory.md R91). -/

namespace Sys2Proof.Machine

/-- One step. The schedule says what the environment does next; when it holds nothing more, the core has its turn, so
that every accepted command commits after finitely many host steps (70_reset_and_hazards.md R268). -/
def step (s : State) : Host.Outcome State Fault Refusal :=
  match s.schedule with
  | [] => coreTurn s
  | .core :: rest => coreTurn { s with schedule := rest }
  | .host a :: rest => hostAccess a { s with schedule := rest }
  | .powerOn :: rest => .next (State.powerOnReset { s with schedule := rest })

/-- The state whose very next step commits the command word `w` of `nbits` bits: the block has accepted it
(60_exceptions.md R240) and the core moves next. -/
def State.withFetchWord (s : State) (nbits w : Nat) : State := s.issueWord nbits w

end Sys2Proof.Machine
end

