-- ==== Sys2Proof/Machine/Script.lean ====
section
/-! DEFINITION. The spec's notations: the assembler syntax of a command (30_encoding.md R120, R121) and the host script
(R122, R123), as the schedule of bus accesses that a script stands for. -/

namespace Sys2Proof.Machine

/-- The mnemonics of 30_encoding.md R120. -/
inductive Mnemonic where
  | nop | enc | dec | lutd | lutb | s2d | d2s
deriving DecidableEq, Repr

/-- The operand of an assembler line: none, `#value`, or the `'c'` of the S2D pseudo-instruction (30_encoding.md R120,
R121). -/
inductive AsmOperand where
  | none
  | imm (value : Nat)
  | char (c : Char)
deriving DecidableEq, Repr

/-- A 16-bit immediate in range (30_encoding.md R120). -/
def asmImm (limit : Nat) (make : Imm16 → Instr) (value : Nat) : Option Instr :=
  if value < limit then some (make (BitVec.ofNat 16 value)) else none

/-- `S2D 'c'` for one of the 62 alphanumeric characters (30_encoding.md R121, 40_tables.md R153). -/
def asmChar (c : Char) : Option Instr :=
  if c.toNat < 256 ∧ (romSym .lexicographic (BitVec.ofNat 8 c.toNat)).isSome then
    some (.s2d (BitVec.ofNat 16 c.toNat))
  else none

/-- The command an assembler line stands for, none when the operand is missing, superfluous or out of range
(30_encoding.md R120, R121). Its word is `encode` of the command. -/
def assemble : Mnemonic → AsmOperand → Option Instr
  | .nop, .none => some .nop
  | .enc, .none => some .enc
  | .dec, .none => some .dec
  | .lutd, .imm v => asmImm 65536 .lutd v
  | .lutb, .imm v => asmImm 65536 .lutb v
  | .s2d, .imm v => asmImm 256 .s2d v
  | .s2d, .char c => asmChar c
  | .d2s, .imm v => asmImm 65536 .d2s v
  | _, _ => none

/-- One line of a host script (30_encoding.md R122, R123). Offsets are from BASE. -/
inductive HostOp where
  /-- `W32 off, v`. -/
  | w32 (off : Nat) (v : Word)
  /-- `W16 off, v`. -/
  | w16 (off : Nat) (v : BitVec 16)
  /-- `W8 off, v`. -/
  | w8 (off : Nat) (v : Byte)
  /-- `R32 off`. -/
  | r32 (off : Nat)
  /-- `CMD <command>`. -/
  | cmd (i : Instr)
  /-- `WAIT`: `polls` reads of STATUS come before the commit, and one after it. -/
  | wait (polls : Nat)
  /-- `LOADB IBUF, b0, ..., bk`. -/
  | loadb (bytes : List Byte)
  /-- `LOADS IBUF, "text"`. -/
  | loads (text : List Char)
  /-- `SRST`. -/
  | srst
deriving DecidableEq, Repr

/-- A 4-byte write at an offset. -/
def w32Event (b : Build) (off : Nat) (v : Word) : Event := .host (.write (b.base + off) (lanesOfWord v))

/-- One-byte writes of IBUF from index `i` on, in order (30_encoding.md R123). -/
def loadEvents (b : Build) : Nat → List Byte → List Event
  | _, [] => []
  | i, x :: rest => .host (.write (b.base + ibufOffset + i) [x]) :: loadEvents b (i + 1) rest

/-- The events a script line stands for (30_encoding.md R122, R123). -/
def scriptEvents (b : Build) : HostOp → List Event
  | .w32 off v => [w32Event b off v]
  | .w16 off v => [.host (.write (b.base + off) [v.extractLsb' 0 8, v.extractLsb' 8 8])]
  | .w8 off v => [.host (.write (b.base + off) [v])]
  | .r32 off => [.host (.read (b.base + off) 4)]
  | .cmd i => [w32Event b (regOffset .cmd) (encode i)]
  | .wait polls =>
    List.replicate polls (.host (.read (b.base + regOffset .status) 4)) ++
      [.core, .host (.read (b.base + regOffset .status) 4)]
  | .loadb bytes => loadEvents b 0 bytes
  | .loads text => loadEvents b 0 (text.map (fun c => BitVec.ofNat 8 c.toNat))
  | .srst => [w32Event b (regOffset .ctrl) 0x80000000#32]

end Sys2Proof.Machine
end

