-- ==== Sys2Proof/WellFormed.lean ====
section
/-! DEFINITION. Which commands and which builds are well formed: the operand range of S2D (30_encoding.md R117, R120) and
the constraints on the build parameters (00_scope.md R8, R10). -/

namespace Sys2Proof

/-- A command is well formed when its operand is one the assembler takes: any 16-bit immediate, and for S2D an 8-bit
code (30_encoding.md R117, R120). -/
def Instr.wellFormed : Instr → Bool
  | .nop => true
  | .enc => true
  | .dec => true
  | .lutd _ => true
  | .lutb _ => true
  | .s2d c => decide (c.toNat < 256)
  | .d2s _ => true

/-- The constraints on a build: 1 <= N <= 255, both buffers of 1 to 65536 bytes, and an output buffer that holds the
encoding of a full input buffer (00_scope.md R8, R10; ENC_LEN is 41_encode.md R176). -/
abbrev Build.WellFormed (b : Build) : Prop :=
  (1 ≤ b.n ∧ b.n ≤ 255) ∧ (1 ≤ b.ibufBytes ∧ b.ibufBytes ≤ 65536) ∧ (1 ≤ b.obufBytes ∧ b.obufBytes ≤ 65536) ∧
    Machine.encLen b.n b.ibufBytes ≤ b.obufBytes

end Sys2Proof
end

