-- ==== Sys2Proof/Safety.lean ====
section
/-! DEFINITION. The terms in which claims speak: the invariant of the reachable states, what a commit and a register reset
leave alone, and schedules that stay inside the block's window. -/

namespace Sys2Proof.Machine

/-- The error record is consistent: ERR = 1 exactly when a code of 1..7 is recorded, an error leaves OUT_LEN and RESULT 0,
and without an error the record is 0 (10_state.md R39, 60_exceptions.md R230, R236, R237). -/
structure State.ErrorRecordOk (s : State) : Prop where
  code_le : s.errCode.toNat ≤ 7
  err_iff : s.err = true ↔ s.errCode ≠ 0#4
  clean : s.err = false → s.errInfo = 0#32
  outLen_zero : s.err = true → s.outLen = 0#32
  result_zero : s.err = true → s.result = 0#32
  info_lt : s.errInfo.toNat < s.build.ibufBytes

/-- The invariant of the reachable states: a legal build, both buffers in canonical form, a consistent error record, an
in-flight command with neither DONE nor ERR (60_exceptions.md R240), and an OUT_LEN that fits OBUF (00_scope.md R10). -/
structure State.Inv (s : State) : Prop where
  build_wf : s.build.WellFormed
  ibuf_wf : Memory.wf s.build.ibufBytes s.ibuf
  obuf_wf : Memory.wf s.build.obufBytes s.obuf
  record : s.ErrorRecordOk
  busy_done : s.busy = true → s.done = false
  busy_err : s.busy = true → s.err = false
  outLen_le : s.outLen.toNat ≤ s.build.obufBytes

/-- Every register at its reset value (10_state.md R51). -/
structure State.RegistersReset (s : State) : Prop where
  cfg : s.cfgWord = 0#32
  ctrl : s.ctrlWord = 0#32
  status : s.statusWord = 0#32
  cmd : s.cmd = 0#32
  inLen : s.inLen = 0#32
  outLen : s.outLen = 0#32
  result : s.result = 0#32
  errInfo : s.errInfo = 0#32

/-- Every byte of IBUF reads the same in two states. -/
def SameIbuf (s t : State) : Prop := ∀ i, t.ibufAt i = s.ibufAt i

/-- Every byte of OBUF reads the same in two states. -/
def SameObuf (s t : State) : Prop := ∀ i, t.obufAt i = s.obufAt i

/-- What no commit changes: the build, CFG, CTRL, WIGN, CMD, IN_LEN, every byte of IBUF, and the model's own fields
(20_memory.md R90, 60_exceptions.md R236). -/
structure CommitFrame (s t : State) : Prop where
  build : t.build = s.build
  alphaSel : t.alphaSel = s.alphaSel
  legacy4 : t.legacy4 = s.legacy4
  ie : t.ie = s.ie
  wign : t.wign = s.wign
  cmd : t.cmd = s.cmd
  inLen : t.inLen = s.inLen
  ibuf : SameIbuf s t
  epoch : t.epoch = s.epoch
  schedule : t.schedule = s.schedule
  response : t.response = s.response

/-- The error record reads the same in two states. -/
structure SameErrorRecord (s t : State) : Prop where
  err : t.err = s.err
  errCode : t.errCode = s.errCode
  errInfo : t.errInfo = s.errInfo

/-- A commit that raised the error `k` with information `info`: everything it writes (60_exceptions.md R236, R239), and
that it writes nothing else. -/
structure RaisedBy (s t : State) (k : ErrKind) (info : Nat) : Prop where
  err : t.err = true
  errCode : t.errCode = k.code
  errInfo : t.errInfo = BitVec.ofNat 32 info
  outLen : t.outLen = 0#32
  result : t.result = 0#32
  busy : t.busy = false
  finished : t.done = true
  obuf : SameObuf s t
  frame : CommitFrame s t

/-- The commit of a command that ended without error and wrote the text or bytes `out` (41_encode.md R175, 42_decode.md
R197): OBUF[i] is out[i] below |out| and unchanged from |out| on. -/
structure WroteOutput (s t : State) (out : List Byte) : Prop where
  outLen : t.outLen = BitVec.ofNat 32 out.length
  written : ∀ i, (h : i < out.length) → t.obufAt i = out[i]
  kept : ∀ i, out.length ≤ i → t.obufAt i = s.obufAt i
  result : t.result = s.result
  record : SameErrorRecord s t
  busy : t.busy = false
  finished : t.done = true
  frame : CommitFrame s t

/-- The commit of a scalar command that ended without error with the result `v` (40_tables.md R154 to R157). -/
structure WroteResult (s t : State) (v : Nat) : Prop where
  result : t.result = BitVec.ofNat 32 v
  outLen : t.outLen = s.outLen
  obuf : SameObuf s t
  record : SameErrorRecord s t
  busy : t.busy = false
  finished : t.done = true
  frame : CommitFrame s t

/-- '0'..'9' (40_tables.md R153). -/
def digitChars : List Char := ['0', '1', '2', '3', '4', '5', '6', '7', '8', '9']

/-- 'A'..'Z' (40_tables.md R153). -/
def upperChars : List Char :=
  ['A', 'B', 'C', 'D', 'E', 'F', 'G', 'H', 'I', 'J', 'K', 'L', 'M', 'N', 'O', 'P', 'Q', 'R', 'S', 'T', 'U', 'V', 'W', 'X',
    'Y', 'Z']

/-- 'a'..'z' (40_tables.md R153). -/
def lowerChars : List Char :=
  ['a', 'b', 'c', 'd', 'e', 'f', 'g', 'h', 'i', 'j', 'k', 'l', 'm', 'n', 'o', 'p', 'q', 'r', 's', 't', 'u', 'v', 'w', 'x',
    'y', 'z']

/-- The three orderings as the spec names them, the symbol of digit k at place k (00_scope.md R3, 40_tables.md R147).
Claims speak of the alphabets through these lists; the machine uses the closed form `romAlpha`. -/
def alphabetChars : AlphaSel → List Char
  | .lexicographic => digitChars ++ upperChars ++ lowerChars
  | .base64like => upperChars ++ lowerChars ++ digitChars
  | .natural => digitChars ++ lowerChars ++ upperChars

/-- The 8-bit codes of a list of characters (40_tables.md R153). -/
def codesOf (text : List Char) : List Byte := text.map (fun c => BitVec.ofNat 8 c.toNat)

/-- The words that are illegal, in the bits of the word (30_encoding.md R114 to R117). -/
def IllegalBits (w : Word) : Prop :=
  7 ≤ (w.extractLsb' 0 4).toNat ∨ w.extractLsb' 4 12 ≠ 0#12 ∨
    ((w.extractLsb' 0 4).toNat ≤ 2 ∧ w.extractLsb' 16 16 ≠ 0#16) ∨
    (w.extractLsb' 0 4 = 5#4 ∧ w.extractLsb' 24 8 ≠ 0#8)

/-- The width of an access in bytes. -/
def Access.width : Access → Nat
  | .read _ w => w
  | .write _ lanes => lanes.length

/-- A 1-, 2- or 4-byte access at index `i` of a buffer of `size` bytes, aligned and inside it (20_memory.md R86). -/
def BufferAccess (size i width : Nat) : Prop :=
  (width = 1 ∨ width = 2 ∨ width = 4) ∧ i % width = 0 ∧ i + width ≤ size

/-- The accesses the block allows, by offset and width (20_memory.md R81, R82, R86): an aligned 4-byte access of the
twelve registers, or a buffer access. -/
def AllowedAccess (b : Build) (off width : Nat) : Prop :=
  (off < 0x30 ∧ off % 4 = 0 ∧ width = 4) ∨
    (∃ i, off = 0x10000 + i ∧ BufferAccess b.ibufBytes i width) ∨
    ∃ i, off = 0x20000 + i ∧ BufferAccess b.obufBytes i width

/-- The next event is a reset: the power-on input, or a write of CTRL with SRST = 1 (70_reset_and_hazards.md R260). -/
def State.ResetNext (s : State) : Prop :=
  (∃ rest, s.schedule = .powerOn :: rest) ∨
    ∃ lanes rest, s.schedule = .host (.write (s.build.base + 0x14) lanes) :: rest ∧ lanes.length = 4 ∧
      (wordOfLanes lanes).getLsbD 31 = true

/-- Two states agree on everything a command reads (60_exceptions.md R244, 20_memory.md R90). -/
structure SameInputs (s u : State) : Prop where
  build : u.build = s.build
  alphaSel : u.alphaSel = s.alphaSel
  legacy4 : u.legacy4 = s.legacy4
  inLen : u.inLen = s.inLen
  ibuf : ∀ i, i < s.inLen.toNat → u.ibufAt i = s.ibufAt i

/-- A host access to an address inside the block's window (20_memory.md R80, R83). -/
def Event.inWindow (b : Build) : Event → Prop
  | .core => True
  | .host a => (windowOffset b a.addr).isSome = true
  | .powerOn => True

/-- A run is safe when no step stops: every scheduled access is inside the window. -/
def State.ScheduleInWindow (s : State) : Prop := ∀ e ∈ s.schedule, Event.inWindow s.build e

/-- The core moves next, and `rest` is what the environment does after it (log entry 5). -/
def State.CoreTurnNext (s : State) (rest : List Event) : Prop :=
  (s.schedule = [] ∧ rest = []) ∨ s.schedule = .core :: rest

end Sys2Proof.Machine
end

