-- ==== Sys2Proof/Certificates/Slice0/Obligations.lean ====
section
/-! DEFINITION. The statements about B62RC, for the provers. Each formalises or follows from the rules its docstring
names.

In all of them `schedule` and `response` are the model's own fields (log entries 5 and 7): a host access that arrives next
is the head of the schedule, the core moves next as `CoreTurnNext` says, and the bytes, acknowledgement or bus error that an
access gets stand in `response`. -/

open Sys2Proof Sys2Proof.Machine

/-! ### Command words -/

/-- R111, R112, R113, R119, R120: decoding the word of a well-formed command gives the command back, from the word and from
the opcode table's numbering of it. -/
def Obligations.DecodeOfEncodeIsTheCommand : Prop :=
  ∀ i : Instr, i.wellFormed = true → decode (encode i) = .ok i ∧ decodeTableWord 32 (encode i).toNat = some i

/-- R118, R119: a word that decodes to a command is that command's one word. -/
def Obligations.DecodedWordIsTheEncodeOfItsCommand : Prop :=
  ∀ (w : Word) (i : Instr), decode w = .ok i → encode i = w ∧ i.wellFormed = true

/-- R113: words written out from the spec decode to the commands they stand for. -/
def Obligations.SpecWordsDecodeToTheirCommands : Prop :=
  decode 0x00000000#32 = .ok .nop ∧ decode 0x00000001#32 = .ok .enc ∧ decode 0x00000002#32 = .ok .dec ∧
  decode 0x00200003#32 = .ok (.lutd 32#16) ∧ decode 0x002B0004#32 = .ok (.lutb 43#16) ∧
  decode 0x007A0005#32 = .ok (.s2d 0x7A#16) ∧ decode 0x003D0006#32 = .ok (.d2s 61#16)

/-- R114, R115, R116, R117, R221: exactly the words with a reserved opcode, a reserved bit set or a superfluous operand
are illegal. An illegal word is accepted like any command (and ignored while BUSY = 1), and its commit raises
ILLEGAL_COMMAND with ERR_INFO 0 and has no other effect. -/
def Obligations.IllegalWordsAreAcceptedAndCommitIllegalCommand : Prop :=
  ∀ w : Word, ((∃ e, decode w = .error e) ↔ IllegalBits w) ∧
    (IllegalBits w → ∀ (s : State) (rest : List Event),
      (s.schedule = w32Event s.build 0x01C w :: rest →
        (s.busy = false → step s = .next { s.accept w with schedule := rest, response := .ack }) ∧
        (s.busy = true → step s = .next { s with wign := true, schedule := rest, response := .ack })) ∧
      (s.busy = true → s.cmd = w → s.CoreTurnNext rest →
        ∃ t, step s = .next t ∧ RaisedBy { s with schedule := rest } t .illegalCommand 0 ∧
          (s.wign = false → t.statusWord = 0x00000506#32)))

/-! ### The step and the command lifecycle -/

/-- R236, R249: at the core's turn a step is the meaning of the decoded command while BUSY = 1, and keeps all state
(beside the schedule) while BUSY = 0. The model's choice (log entries 5 and 8): whose turn it is, and that the state
`withFetchWord` makes is one accept before such a step. -/
def Obligations.StepCommitsTheDecodedCommand : Prop :=
  (∀ (s : State) (rest : List Event) (i : Instr), s.busy = true → s.CoreTurnNext rest → decode s.cmd = .ok i →
    step s = exec i { s with schedule := rest }) ∧
  (∀ (s : State) (rest : List Event), s.busy = false → s.CoreTurnNext rest → step s = .next { s with schedule := rest }) ∧
  ∀ (s : State) (w : Word) (i : Instr), decode w = .ok i → step (s.withFetchWord 32 w.toNat) = exec i (s.accept w)

/-- R240: a host write of CMD while BUSY = 0 accepts the word, whatever it is; while BUSY = 1 it is ignored and sets
WIGN. -/
def Obligations.HostWriteOfCmdAcceptsTheWord : Prop :=
  ∀ (s : State) (w : Word) (rest : List Event), s.schedule = w32Event s.build 0x01C w :: rest →
    (s.busy = false → ∃ t, step s = .next t ∧ t.irq = false ∧
      t = { s with cmd := w, busy := true, done := false, err := false, errCode := 0#4, errInfo := 0#32,
                   schedule := rest, response := .ack }) ∧
    (s.busy = true → step s = .next { s with wign := true, schedule := rest, response := .ack })

/-- R39, R236, R237: a commit that turns the error record on writes the record, OUT_LEN and RESULT, and nothing else; only
DEC records an index. -/
def Obligations.ErrorCommitWritesOnlyTheErrorRecord : Prop :=
  ∀ (i : Instr) (s t : State), exec i s = .next t → s.err = false → t.err = true →
    ∃ k info, RaisedBy s t k info ∧ (i ≠ .dec → info = 0)

/-- R90, R236: every command commits in every state. No commit changes the build, CFG, CTRL, WIGN, CMD, IN_LEN or a byte
of IBUF; only ENC and DEC change OBUF; without an error only ENC and DEC change OUT_LEN and only the scalar commands
change RESULT. -/
def Obligations.EveryCommandCommitsInsideItsFrame : Prop :=
  ∀ (i : Instr) (s : State), ∃ t, exec i s = .next t ∧ CommitFrame s t ∧ t.busy = false ∧ t.done = true ∧
    (i ≠ .enc → i ≠ .dec → SameObuf s t) ∧
    (i ≠ .enc → i ≠ .dec → t.err = false → t.outLen = s.outLen) ∧
    (i = .nop ∨ i = .enc ∨ i = .dec → t.err = false → t.result = s.result)

/-! ### NOP and the scalar commands -/

/-- R220: NOP changes only BUSY and DONE; after its accept it leaves the error record 0, OUT_LEN, RESULT and OBUF as they
were, and raises IRQ when CTRL.IE = 1. A NOP word with an operand is illegal. -/
def Obligations.NopCommitsWithoutEffect : Prop :=
  ∀ s : State, encode .nop = 0x00000000#32 ∧ exec .nop s = .next { s with busy := false, done := true } ∧
    (∀ imm : Imm16, imm ≠ 0#16 → decode (imm ++ 0#16) = .error .immediateNotZero) ∧
    ∃ t, exec .nop (s.accept (encode .nop)) = .next t ∧ t.err = false ∧ t.errCode = 0#4 ∧ t.errInfo = 0#32 ∧
      t.outLen = s.outLen ∧ t.result = s.result ∧ SameObuf s t ∧ t.irq = s.ie ∧
      (s.wign = false → t.statusWord = 0x00000002#32)

/-- R154: LUTD gives the least digit count whose groups hold n bytes, for 1 <= n <= N, and raises DOMAIN for every other
n. -/
def Obligations.LutdGivesTheLeastDigitCount : Prop :=
  ∀ (n : Imm16) (s : State), encode (.lutd n) = 0x0003#32 ||| (n.setWidth 32 <<< 16) ∧
    (1 ≤ n.toNat → n.toNat ≤ s.build.n → ∃ t d, exec (.lutd n) s = .next t ∧ WroteResult s t d ∧
      2 ^ (8 * n.toNat) ≤ 62 ^ d ∧ (∀ e, 2 ^ (8 * n.toNat) ≤ 62 ^ e → d ≤ e) ∧
      (n.toNat = s.build.n → d = dMax s.build.n) ∧ (n.toNat = 4 → d = 6)) ∧
    (n.toNat = 0 ∨ s.build.n < n.toNat → ∃ t, exec (.lutd n) s = .next t ∧ RaisedBy s t .domain 0)

/-- R155: LUTB gives the byte length whose groups have d digits, and raises FRAMING when there is none. -/
def Obligations.LutbInvertsTheSizeTable : Prop :=
  ∀ (d : Imm16) (s : State), encode (.lutb d) = 0x0004#32 ||| (d.setWidth 32 <<< 16) ∧
    (∀ b, 1 ≤ b → b ≤ s.build.n → digits b = d.toNat → ∃ t, exec (.lutb d) s = .next t ∧ WroteResult s t b) ∧
    ((∀ b, 1 ≤ b → b ≤ s.build.n → digits b ≠ d.toNat) → ∃ t, exec (.lutb d) s = .next t ∧ RaisedBy s t .framing 0) ∧
    (d.toNat ≤ 1 ∨ d.toNat = 4 ∨ dMax s.build.n < d.toNat →
      ∃ t, exec (.lutb d) s = .next t ∧ RaisedBy s t .framing 0) ∧
    (1 ≤ s.build.n → d.toNat = dMax s.build.n → ∃ t, exec (.lutb d) s = .next t ∧ WroteResult s t s.build.n) ∧
    (32 ≤ s.build.n → d.toNat = 43 → ∃ t, exec (.lutb d) s = .next t ∧ WroteResult s t 32)

/-- R156: S2D gives the place of the character in the active alphabet, and raises ALPHABET_MISMATCH for a code outside
it. A word with IMM16[15:8] not 0 does not decode, and the commit of that word raises ILLEGAL_COMMAND. -/
def Obligations.S2dLooksUpTheDigit : Prop :=
  ∀ (c : Imm16) (s : State), encode (.s2d c) = 0x0005#32 ||| (c.setWidth 32 <<< 16) ∧
    (∀ k ch, (alphabetChars s.alphaSel)[k]? = some ch → ch.toNat = c.toNat →
      ∃ t, exec (.s2d c) s = .next t ∧ WroteResult s t k) ∧
    (c.toNat < 256 → (∀ ch ∈ alphabetChars s.alphaSel, ch.toNat ≠ c.toNat) →
      ∃ t, exec (.s2d c) s = .next t ∧ RaisedBy s t .alphabetMismatch 0) ∧
    (256 ≤ c.toNat → decode (encode (.s2d c)) = .error .symbolHighByte ∧
      ∀ rest, s.busy = true → s.cmd = encode (.s2d c) → s.CoreTurnNext rest →
        ∃ t, step s = .next t ∧ RaisedBy { s with schedule := rest } t .illegalCommand 0)

/-- The model's choice for an operand that the decoder never gives (log entry 11): the meaning of S2D applied to an operand
of 256 or more raises the error that the decode of its word raises. -/
def Obligations.S2dMeaningOfAnUndecodableOperandIsIllegal : Prop :=
  ∀ (c : Imm16) (s : State), 256 ≤ c.toNat → ∃ t, exec (.s2d c) s = .next t ∧ RaisedBy s t .illegalCommand 0

/-- R157: D2S gives the code of the character at place k of the active alphabet, and raises DOMAIN for k > 61. -/
def Obligations.D2sLooksUpTheSymbol : Prop :=
  ∀ (k : Imm16) (s : State), encode (.d2s k) = 0x0006#32 ||| (k.setWidth 32 <<< 16) ∧
    (k.toNat ≤ 61 → ∃ t ch, (alphabetChars s.alphaSel)[k.toNat]? = some ch ∧ exec (.d2s k) s = .next t ∧
      WroteResult s t ch.toNat) ∧
    (62 ≤ k.toNat → ∃ t, exec (.d2s k) s = .next t ∧ RaisedBy s t .domain 0)

/-! ### Encode -/

/-- R178: ENC commits without error on every input that fits (in legacy mode, whose length is a multiple of 4). What it
writes is a function of the input bytes, ALPHA_SEL and N alone, and every byte of it is a symbol of the active alphabet. -/
def Obligations.EncCommitsTheTextOfItsInput : Prop :=
  ∀ s : State, s.inLen.toNat ≤ s.build.ibufBytes → (s.legacy4 = true → s.inLen.toNat % 4 = 0) →
    ∃ t, exec .enc s = .next t ∧ WroteOutput s t (encodeText s.build.n s.alphaSel s.input) ∧
      ∀ x ∈ encodeText s.build.n s.alphaSel s.input, x ∈ codesOf (alphabetChars s.alphaSel)

/-- R171, R235, R238: ENC and DEC raise LENGTH when IN_LEN > IBUF_BYTES, before every other check. In legacy mode an ENC
whose IN_LEN fits and is not a multiple of 4 raises INVALID_INPUT_LENGTH; otherwise it does exactly what it does in general
mode. -/
def Obligations.LengthChecksComeBeforeConversion : Prop :=
  ∀ s : State,
    (s.build.ibufBytes < s.inLen.toNat → (∃ t, exec .enc s = .next t ∧ RaisedBy s t .length 0) ∧
      ∃ t, exec .dec s = .next t ∧ RaisedBy s t .length 0) ∧
    (s.legacy4 = true → s.inLen.toNat ≤ s.build.ibufBytes → s.inLen.toNat % 4 ≠ 0 →
      ∃ t, exec .enc s = .next t ∧ RaisedBy s t .invalidInputLength 0) ∧
    (s.legacy4 = true → s.inLen.toNat % 4 = 0 → ∀ t, exec .enc { s with legacy4 := false } = .next t →
      exec .enc s = .next { t with legacy4 := true })

/-- R172, R175: the input is cut front to back into ceil(L / N) chunks, all of N bytes but the last, which has the rest; the
text is their groups in order. -/
def Obligations.ChunksAreCutFrontToBack : Prop :=
  ∀ (n : Nat) (sel : AlphaSel) (bytes : List Byte), 1 ≤ n →
    encodeText n sel bytes = ((pieces n bytes).map (encodeChunk sel)).flatten ∧
    (pieces n bytes).flatten = bytes ∧ (pieces n bytes).length = (bytes.length + n - 1) / n ∧
    ∀ (i : Nat) (c : List Byte), (pieces n bytes)[i]? = some c →
      c = (bytes.drop (i * n)).take n ∧ (i + 1 < (pieces n bytes).length → c.length = n) ∧
      (i + 1 = (pieces n bytes).length → c.length = bytes.length - i * n ∧ 1 ≤ c.length ∧ c.length ≤ n)

/-- R17: the value functions are the positional ones, and BE_BYTES and DIGITS62 are their inverses. -/
def Obligations.ValueFunctionsArePositional : Prop :=
  (∀ c : List Byte, beValue c = ∑ j ∈ Finset.range c.length, (c.getD j 0#8).toNat * 256 ^ (c.length - 1 - j)) ∧
  (∀ v b : Nat, v < 2 ^ (8 * b) → (beBytes v b).length = b ∧ beValue (beBytes v b) = v) ∧
  (∀ v k : Nat, v < 62 ^ k → (digits62 v k).length = k ∧ (∀ d ∈ digits62 v k, d < 62) ∧ val62 (digits62 v k) = v) ∧
  (∀ ds : List Nat, val62 ds = ∑ j ∈ Finset.range ds.length, ds.getD j 0 * 62 ^ (ds.length - 1 - j)) ∧
  ∀ c : List Byte, beBytes (beValue c) c.length = c

/-- R173, R174: the group of a chunk of n bytes has exactly DIGITS(n) symbols of the alphabet, spells the chunk's big-endian
value, and holds the zero-symbol at every place above the value's own digits. -/
def Obligations.EncodedGroupHasFixedWidthAndValue : Prop :=
  ∀ (sel : AlphaSel) (chunk : List Byte),
    (encodeChunk sel chunk).length = digits chunk.length ∧
    (∀ x ∈ encodeChunk sel chunk, (romSym sel x).isSome = true) ∧
    groupValue sel (encodeChunk sel chunk) = beValue chunk ∧
    ∀ j, j < digits chunk.length → beValue chunk < 62 ^ (digits chunk.length - 1 - j) →
      (encodeChunk sel chunk)[j]? = some (romAlpha sel 0)

/-- R176: the output length of an encode is ENC_LEN of its input length, with the spec's values for N = 32. -/
def Obligations.EncodedLengthIsEncLen : Prop :=
  (∀ (n : Nat) (sel : AlphaSel) (bytes : List Byte), 1 ≤ n →
    (encodeText n sel bytes).length = bytes.length / n * digits n + digits (bytes.length % n)) ∧
  digits 0 = 0 ∧ [0, 1, 4, 32, 33, 4096].map (encLen 32) = [0, 2, 6, 43, 45, 5504] ∧
  ∀ s t : State, s.build.WellFormed → s.err = false → exec .enc s = .next t → t.err = false →
    t.outLen.toNat = encLen s.build.n s.inLen.toNat

/-- R177: ENC_LEN is strictly increasing, inside a chunk because DIGITS is, and by D_MAX - DIGITS(N - 1) across a chunk
boundary. -/
def Obligations.EncLenIsStrictlyIncreasing : Prop :=
  ∀ n : Nat, 1 ≤ n → (∀ l m, l < m → encLen n l < encLen n m) ∧
    (∀ q r, r + 1 < n → encLen n (q * n + r) + 1 ≤ encLen n (q * n + (r + 1))) ∧
    ∀ q, encLen n (q * n + n) - encLen n (q * n + n - 1) = dMax n - digits (n - 1) ∧ 1 ≤ dMax n - digits (n - 1)

/-- R179: every group is a function of its own chunk (and ALPHA_SEL), so the encoding of a whole number of chunks followed
by more bytes is the two encodings, one after the other. -/
def Obligations.ChunksAreEncodedIndependently : Prop :=
  ∀ (n : Nat) (sel : AlphaSel) (b1 b2 : List Byte),
    encodeText n sel b1 = ((pieces n b1).map (encodeChunk sel)).flatten ∧
    (n ∣ b1.length → encodeText n sel (b1 ++ b2) = encodeText n sel b1 ++ encodeText n sel b2)

/-- R158: under the lexicographic alphabet encodings of inputs of equal length compare as the inputs do. Under each of the
other two alphabets the symbols do not rise and two inputs of equal length compare the other way ([00] and [3D] as "AA" and
"A9", [0A] and [24] as "0a" and "0A"), and between different lengths the order is not kept. -/
def Obligations.LexicographicEncodingKeepsOrder : Prop :=
  (∀ k, k < 61 → romAlpha .lexicographic k < romAlpha .lexicographic (k + 1)) ∧
  (∀ (n : Nat) (b1 b2 : List Byte), 1 ≤ n → b1.length = b2.length →
    (encodeText n .lexicographic b1 < encodeText n .lexicographic b2 ↔ b1 < b2)) ∧
  romAlpha .base64like 52 < romAlpha .base64like 0 ∧ romAlpha .natural 36 < romAlpha .natural 10 ∧
  (encodeText 32 .base64like [0x00#8] = codesOf ['A', 'A'] ∧ encodeText 32 .base64like [0x3D#8] = codesOf ['A', '9'] ∧
    [0x00#8] < [0x3D#8] ∧ codesOf ['A', '9'] < codesOf ['A', 'A']) ∧
  (encodeText 32 .natural [0x0A#8] = codesOf ['0', 'a'] ∧ encodeText 32 .natural [0x24#8] = codesOf ['0', 'A'] ∧
    [0x0A#8] < [0x24#8] ∧ codesOf ['0', 'A'] < codesOf ['0', 'a']) ∧
  encodeText 32 .lexicographic [0x01#8, 0xFF#8] = codesOf ['0', '8', 'F'] ∧
  encodeText 32 .lexicographic [0x02#8] = codesOf ['0', '2'] ∧
  [0x01#8, 0xFF#8] < [0x02#8] ∧ codesOf ['0', '2'] < codesOf ['0', '8', 'F']

/-! ### Decode -/

/-- R190, R192, R194, R196, R197: DEC of a string of valid codes whose groups all have a table length and a value in range
commits without error and writes the big-endian bytes of the groups' values, in order. -/
def Obligations.DecCommitsTheBytesOfItsGroups : Prop :=
  ∀ s : State, s.inLen.toNat ≤ s.build.ibufBytes →
    (∀ i, i < s.inLen.toNat → (romSym s.alphaSel (s.ibufAt i)).isSome = true) →
    (∀ g ∈ pieces (dMax s.build.n) s.input, ∃ b, bytesOf s.build.n g.length = some b ∧
      groupValue s.alphaSel g < 2 ^ (8 * b)) →
    ∃ t, exec .dec s = .next t ∧ WroteOutput s t
      ((pieces (dMax s.build.n) s.input).flatMap
        (fun g => beBytes (groupValue s.alphaSel g) ((bytesOf s.build.n g.length).getD 0)))

/-- R191: a code outside the alphabet anywhere in the string raises ALPHABET_MISMATCH with the least such index, whatever
the groups would do. -/
def Obligations.DecReportsTheFirstForeignCode : Prop :=
  ∀ (s : State) (i : Nat), s.inLen.toNat ≤ s.build.ibufBytes → i < s.inLen.toNat →
    romSym s.alphaSel (s.ibufAt i) = none →
    (∀ j, j < i → (romSym s.alphaSel (s.ibufAt j)).isSome = true) →
    ∃ t, exec .dec s = .next t ∧ RaisedBy s t .alphabetMismatch i

/-- R198: framing depends only on L. DEC reports FRAMING only when r = L mod D_MAX is not 0 and no table value, and always
at index L - r; it does report it then, unless an earlier check or group fails. For N = 32 the failing r are listed. -/
def Obligations.DecFramingDependsOnlyOnLength : Prop :=
  ∀ s : State, 1 ≤ s.build.n → s.inLen.toNat ≤ s.build.ibufBytes →
    (∀ t, s.err = false → exec .dec s = .next t → t.err = true → t.errCode = 2#4 →
      s.inLen.toNat % dMax s.build.n ≠ 0 ∧ bytesOf s.build.n (s.inLen.toNat % dMax s.build.n) = none ∧
      t.errInfo.toNat = s.inLen.toNat - s.inLen.toNat % dMax s.build.n) ∧
    ((∀ i, i < s.inLen.toNat → (romSym s.alphaSel (s.ibufAt i)).isSome = true) →
      (∀ g ∈ pieces (dMax s.build.n) s.input, g.length = dMax s.build.n →
        groupValue s.alphaSel g < 2 ^ (8 * s.build.n)) →
      s.inLen.toNat % dMax s.build.n ≠ 0 → bytesOf s.build.n (s.inLen.toNat % dMax s.build.n) = none →
      ∃ t, exec .dec s = .next t ∧
        RaisedBy s t .framing (s.inLen.toNat - s.inLen.toNat % dMax s.build.n)) ∧
    (s.build.n = 32 → ∀ r, r < 43 → r ≠ 0 →
      (bytesOf s.build.n r = none ↔ r ∈ [1, 4, 8, 12, 16, 20, 24, 28, 32, 36, 40]))

/-- R195, R237, R238: when every code is valid and every group before group q has a table length and a value in range, a
group q with a table length and a value of 2^(8b) or more raises OVERFLOW with its start index, whatever follows it. -/
def Obligations.DecReportsTheFirstOverflowingGroup : Prop :=
  ∀ (s : State) (q : Nat) (g : List Byte) (b : Nat), s.inLen.toNat ≤ s.build.ibufBytes →
    (∀ i, i < s.inLen.toNat → (romSym s.alphaSel (s.ibufAt i)).isSome = true) →
    (pieces (dMax s.build.n) s.input)[q]? = some g →
    bytesOf s.build.n g.length = some b → 2 ^ (8 * b) ≤ groupValue s.alphaSel g →
    (∀ p h, p < q → (pieces (dMax s.build.n) s.input)[p]? = some h →
      ∃ c, bytesOf s.build.n h.length = some c ∧ groupValue s.alphaSel h < 2 ^ (8 * c)) →
    ∃ t, exec .dec s = .next t ∧ RaisedBy s t .overflow (q * dMax s.build.n)

/-- R199: a DEC that succeeds writes DEC_LEN(L) bytes, at most 3L/4, and never more than OBUF holds. -/
def Obligations.DecodedLengthIsDecLen : Prop :=
  (∀ s t : State, s.build.WellFormed → s.err = false → exec .dec s = .next t → t.err = false →
    t.outLen.toNat = s.inLen.toNat / dMax s.build.n * s.build.n +
      (if s.inLen.toNat % dMax s.build.n = 0 then 0
       else (bytesOf s.build.n (s.inLen.toNat % dMax s.build.n)).getD 0) ∧
    t.outLen.toNat = decLen s.build.n s.inLen.toNat) ∧
  (∀ n l : Nat, 1 ≤ n → decLen n l ≤ 3 * l / 4) ∧
  ∀ (b : Build) (l : Nat), b.WellFormed → l ≤ b.ibufBytes →
    decLen b.n l ≤ l ∧ b.ibufBytes ≤ b.obufBytes ∧ decLen b.n l ≤ b.obufBytes

/-- R201: DEC does not read LEGACY4. -/
def Obligations.DecIgnoresLegacyMode : Prop :=
  ∀ (s t : State) (b : Bool), exec .dec s = .next t → exec .dec { s with legacy4 := b } = .next { t with legacy4 := b }

/-- R202: for every table length k the group of k digits 61 has value 62^k - 1, which is 2^(8b) or more, and DEC of it
raises OVERFLOW. -/
def Obligations.AllMaximumGroupsOverflow : Prop :=
  ∀ (s : State) (k b : Nat), bytesOf s.build.n k = some b →
    groupValue s.alphaSel (List.replicate k (romAlpha s.alphaSel 61)) = 62 ^ k - 1 ∧ 2 ^ (8 * b) ≤ 62 ^ k - 1 ∧
    (k ≤ s.build.ibufBytes → s.input = List.replicate k (romAlpha s.alphaSel 61) →
      ∃ t, exec .dec s = .next t ∧ RaisedBy s t .overflow 0)

/-- R203: a group of k valid codes is accepted exactly when its value is at most 2^(8b) - 1. The largest accepted group is
the encoding of b bytes 0xFF, the next value up raises OVERFLOW, and the spec's four strings show it. -/
def Obligations.OverflowBoundaryIsTheEncodingOfAllOnes : Prop :=
  (∀ (n : Nat) (sel : AlphaSel) (p k b : Nat), bytesOf n k = some b →
    (∀ g : List Byte, g.length = k → (∀ x ∈ g, (romSym sel x).isSome = true) →
      ((∃ out, decodeGroup n sel p g = .ok out) ↔ groupValue sel g ≤ 2 ^ (8 * b) - 1)) ∧
    (encodeChunk sel (List.replicate b 0xFF#8)).length = k ∧
    groupValue sel (encodeChunk sel (List.replicate b 0xFF#8)) = 2 ^ (8 * b) - 1 ∧
    decodeGroup n sel p (encodeChunk sel (List.replicate b 0xFF#8)) = .ok (List.replicate b 0xFF#8) ∧
    groupValue sel ((digits62 (2 ^ (8 * b)) k).map (romAlpha sel)) = 2 ^ (8 * b) ∧
    decodeGroup n sel p ((digits62 (2 ^ (8 * b)) k).map (romAlpha sel)) = .error (.overflow, p)) ∧
  decodeText 32 .lexicographic (codesOf ['4', '7']) = .ok [0xFF#8] ∧
  decodeText 32 .lexicographic (codesOf ['4', '8']) = .error (.overflow, 0) ∧
  decodeText 32 .lexicographic (codesOf ['y', 'h', 'j', 's', 'k', 'w', 'd', 'A', '6', 'O', 'Z', '1', 'A', 'L', '1', 'Y', 'm',
    'H', 'W', 'Z', 'W', 'm', '8', 'L', 'L', 'G', '7', 'H', 'j', 'n', 'u', 'C', 'A', '2', 'j', '5', 'r', 'O', 'w', '8', 'X',
    'p', '1']) = .ok (List.replicate 32 0xFF#8) ∧
  decodeText 32 .lexicographic (codesOf ['y', 'h', 'j', 's', 'k', 'w', 'd', 'A', '6', 'O', 'Z', '1', 'A', 'L', '1', 'Y', 'm',
    'H', 'W', 'Z', 'W', 'm', '8', 'L', 'L', 'G', '7', 'H', 'j', 'n', 'u', 'C', 'A', '2', 'j', '5', 'r', 'O', 'w', '8', 'X',
    'p', '2']) = .error (.overflow, 0)

/-- R205 and the L = 0 case of R170: an empty input commits without error, with OUT_LEN 0 and everything else as it was. -/
def Obligations.EmptyInputGivesEmptyOutput : Prop :=
  ∀ s : State, s.inLen = 0#32 →
    exec .dec s = .next { s with outLen := 0#32, busy := false, done := true } ∧
    exec .enc s = .next { s with outLen := 0#32, busy := false, done := true }

/-! ### Both directions -/

/-- R200, round trip: an ENC that succeeds, its output copied into IBUF (where it fits) with IN_LEN set to OUT_LEN, and a DEC
under the same ALPHA_SEL and build: the DEC commits without error and its output is the ENC's input. -/
def Obligations.DecOfEncGivesTheInputBack : Prop :=
  ∀ s t u : State, s.build.WellFormed → s.err = false → exec .enc s = .next t → t.err = false →
    u.build = s.build → u.alphaSel = s.alphaSel → u.err = false → u.inLen = t.outLen →
    t.outLen.toNat ≤ s.build.ibufBytes → (∀ i, i < t.outLen.toNat → u.ibufAt i = t.obufAt i) →
    ∃ v, exec .dec u = .next v ∧ v.err = false ∧ v.outLen = s.inLen ∧
      ∀ i, i < s.inLen.toNat → v.obufAt i = s.ibufAt i

/-- R204, canonical form: a string DEC accepts is the encoding of its output, and two accepted strings with the same output
are equal. -/
def Obligations.EncOfDecGivesTheStringBack : Prop :=
  (∀ s t u : State, s.build.WellFormed → s.err = false → exec .dec s = .next t → t.err = false →
    u.build = s.build → u.alphaSel = s.alphaSel → u.legacy4 = false → u.err = false → u.inLen = t.outLen →
    (∀ i, i < t.outLen.toNat → u.ibufAt i = t.obufAt i) →
    ∃ v, exec .enc u = .next v ∧ v.err = false ∧ v.outLen = s.inLen ∧
      ∀ i, i < s.inLen.toNat → v.obufAt i = s.ibufAt i) ∧
  ∀ s s' t t' : State, s.build.WellFormed → s'.build = s.build → s'.alphaSel = s.alphaSel →
    s.err = false → s'.err = false → exec .dec s = .next t → exec .dec s' = .next t' → t.err = false → t'.err = false →
    t'.outLen = t.outLen → (∀ i, i < t.outLen.toNat → t'.obufAt i = t.obufAt i) →
    s'.inLen = s.inLen ∧ ∀ i, i < s.inLen.toNat → s'.ibufAt i = s.ibufAt i

/-- R244: the same command on the same IBUF[0..IN_LEN), IN_LEN and CFG gives the same outcome, error or result, whatever
else the two states hold. -/
def Obligations.RetryGivesTheSameOutcome : Prop :=
  ∀ (i : Instr) (s u : State), SameInputs s u → SameErrorRecord s u →
    ∃ t v, exec i s = .next t ∧ exec i u = .next v ∧ SameErrorRecord t v ∧
      (s.err = false → t.err = true → t.outLen = v.outLen ∧ t.result = v.result) ∧
      (s.err = false → t.err = false →
        (i = .enc ∨ i = .dec → t.outLen = v.outLen ∧ ∀ j, j < t.outLen.toNat → t.obufAt j = v.obufAt j) ∧
        (i ≠ .nop → i ≠ .enc → i ≠ .dec → t.result = v.result))

/-! ### The tables -/

/-- R142, R145: the contents of ROM_DIGITS and ROM_BYTES for N = 32, with the bit widths of R142's columns. -/
def Obligations.SizeTablesHoldTheListedValues : Prop :=
  (List.range' 1 32).map digits =
    [2, 3, 5, 6, 7, 9, 10, 11, 13, 14, 15, 17, 18, 19, 21, 22, 23, 25, 26, 27, 29, 30, 31, 33, 34, 35, 37, 38, 39, 41, 42,
      43] ∧
  (List.range' 1 32).map (fun n => (2 ^ (8 * n) - 1).log2 + 1) = (List.range' 1 32).map (fun n => 8 * n) ∧
  (List.range' 1 32).map (fun n => (62 ^ digits n - 1).log2 + 1) =
    [12, 18, 30, 36, 42, 54, 60, 66, 78, 84, 90, 102, 108, 114, 126, 131, 137, 149, 155, 161, 173, 179, 185, 197, 203, 209,
      221, 227, 233, 245, 251, 257] ∧
  (List.range 44).map (bytesOf 32) =
    [none, none, some 1, some 2, none, some 3, some 4, some 5, none, some 6, some 7, some 8, none, some 9, some 10, some 11,
      none, some 12, some 13, some 14, none, some 15, some 16, some 17, none, some 18, some 19, some 20, none, some 21,
      some 22, some 23, none, some 24, some 25, some 26, none, some 27, some 28, some 29, none, some 30, some 31,
      some 32] ∧
  ∀ d, 43 < d → bytesOf 32 d = none

/-- R143: DIGITS is strictly increasing. -/
def Obligations.DigitsIsStrictlyIncreasing : Prop :=
  (∀ n, digits n + 1 ≤ digits (n + 1)) ∧ ∀ m n, digits m = digits n → m = n

/-- R144: BYTES_OF(d) is the byte length in 1..N with DIGITS of d, if there is one, and none otherwise; none raises FRAMING
wherever it is looked up, in LUTB and in a group of a DEC. -/
def Obligations.BytesOfInvertsDigits : Prop :=
  (∀ n d : Nat, (∀ b, bytesOf n d = some b ↔ 1 ≤ b ∧ b ≤ n ∧ digits b = d) ∧
    (bytesOf n d = none ↔ ∀ b, 1 ≤ b → b ≤ n → digits b ≠ d)) ∧
  (∀ (d : Imm16) (s : State), bytesOf s.build.n d.toNat = none →
    ∃ t, exec (.lutb d) s = .next t ∧ RaisedBy s t .framing 0) ∧
  ∀ (n p : Nat) (sel : AlphaSel) (g : List Byte), bytesOf n g.length = none →
    decodeGroup n sel p g = .error (.framing, p)

/-- R146: a chunk's value fits its group, so it has at most DIGITS(n) base-62 digits. -/
def Obligations.PaddingAlwaysFits : Prop :=
  ∀ (sel : AlphaSel) (chunk : List Byte),
    beValue chunk < 2 ^ (8 * chunk.length) ∧ 2 ^ (8 * chunk.length) ≤ 62 ^ digits chunk.length ∧
    (Nat.digits 62 (beValue chunk)).length ≤ digits chunk.length ∧
    (encodeChunk sel chunk).length = digits chunk.length

/-- R147, R148, R150, R151, R152: ROM_ALPHA holds the three orderings of the 62 characters, the zero-symbols are '0', 'A' and
'0', ROM_SYM is its inverse, and the valid codes are the 62 alphanumeric ones under every ordering. -/
def Obligations.AlphabetRomsAreInverseBijections : Prop :=
  (∀ sel : AlphaSel, (List.range 62).map (romAlpha sel) = codesOf (alphabetChars sel)) ∧
  romAlpha .lexicographic 0 = 0x30#8 ∧ romAlpha .base64like 0 = 0x41#8 ∧ romAlpha .natural 0 = 0x30#8 ∧
  (∀ (sel : AlphaSel) (c : Byte) (k : Nat), romSym sel c = some k ↔ k ≤ 61 ∧ romAlpha sel k = c) ∧
  ∀ (sel : AlphaSel) (c : Byte), (romSym sel c).isSome = true ↔
    (0x30 ≤ c.toNat ∧ c.toNat ≤ 0x39) ∨ (0x41 ≤ c.toNat ∧ c.toNat ≤ 0x5A) ∨ (0x61 ≤ c.toNat ∧ c.toNat ≤ 0x7A)

/-! ### Registers and the bus -/

/-- R31, R32: ID and the parameter registers read their constants, and a write of one of them changes nothing but the
response. -/
def Obligations.IdentificationRegistersAreConstant : Prop :=
  ∀ (s : State) (rest : List Event),
    (s.schedule = .host (.read (s.build.base + 0x000) 4) :: rest →
      step s = .next { s with schedule := rest, response := .data (lanesOfWord 0x00620007#32) }) ∧
    (s.schedule = .host (.read (s.build.base + 0x004) 4) :: rest →
      ∃ p : Word, step s = .next { s with schedule := rest, response := .data (lanesOfWord p) } ∧
        p.extractLsb' 0 16 = BitVec.ofNat 16 s.build.n ∧ p.extractLsb' 16 16 = BitVec.ofNat 16 (digits s.build.n) ∧
        (s.build.n = 32 → p = 0x002B0020#32)) ∧
    (s.schedule = .host (.read (s.build.base + 0x008) 4) :: rest →
      step s = .next { s with schedule := rest,
                              response := .data (lanesOfWord (BitVec.ofNat 32 s.build.ibufBytes)) }) ∧
    (s.schedule = .host (.read (s.build.base + 0x00C) 4) :: rest →
      step s = .next { s with schedule := rest,
                              response := .data (lanesOfWord (BitVec.ofNat 32 s.build.obufBytes)) }) ∧
    ∀ (off : Nat) (w : Word), off ∈ [0x000, 0x004, 0x008, 0x00C] → s.schedule = w32Event s.build off w :: rest →
      step s = .next { s with schedule := rest, response := .ack }

/-- R81, R84, R89: a 4-byte read of each of the other registers returns its word on the lanes and changes nothing else. -/
def Obligations.RegisterReadsReturnTheRegister : Prop :=
  ∀ (s : State) (rest : List Event) (off : Nat) (w : Word),
    (off, w) ∈ [(0x010, s.cfgWord), (0x014, s.ctrlWord), (0x018, s.statusWord), (0x01C, s.cmd), (0x020, s.inLen),
      (0x024, s.outLen), (0x028, s.result), (0x02C, s.errInfo)] →
    s.schedule = .host (.read (s.build.base + off) 4) :: rest →
    step s = .next { s with schedule := rest, response := .data (lanesOfWord w) }

/-- R36: the fields of STATUS lie at their bits, the reserved bits read zero, a write clears DONE and WIGN where it has a 1
and changes nothing else, whatever BUSY is, and a read has no side effect. -/
def Obligations.StatusReadsItsFieldsAndClearsOnOne : Prop :=
  ∀ (s : State) (rest : List Event) (w : Word),
    s.statusWord.getLsbD 0 = s.busy ∧ s.statusWord.getLsbD 1 = s.done ∧ s.statusWord.getLsbD 2 = s.err ∧
    s.statusWord.getLsbD 3 = s.wign ∧ s.statusWord.extractLsb' 4 4 = 0#4 ∧ s.statusWord.extractLsb' 8 4 = s.errCode ∧
    s.statusWord.extractLsb' 12 20 = 0#20 ∧
    (s.schedule = w32Event s.build 0x018 w :: rest →
      step s = .next { s with done := s.done && !w.getLsbD 1, wign := s.wign && !w.getLsbD 3,
                              schedule := rest, response := .ack }) ∧
    (s.schedule = .host (.read (s.build.base + 0x018) 4) :: rest →
      step s = .next { s with schedule := rest, response := .data (lanesOfWord s.statusWord) })

/-- R33, R34: an idle CFG write writes LEGACY4 from bit 2 and ALPHA_SEL from bits [1:0], except that 3 leaves ALPHA_SEL as
it was. ALPHA_SEL reads 0 for lexicographic, 1 for base64-like and 2 for natural, never 3, and the reserved bits read
zero. -/
def Obligations.CfgIsWriteAnyReadLegal : Prop :=
  ∀ (s : State) (rest : List Event) (w : Word),
    s.cfgWord.extractLsb' 0 2 ≠ 3#2 ∧ (s.alphaSel = .lexicographic → s.cfgWord.extractLsb' 0 2 = 0#2) ∧
    (s.alphaSel = .base64like → s.cfgWord.extractLsb' 0 2 = 1#2) ∧
    (s.alphaSel = .natural → s.cfgWord.extractLsb' 0 2 = 2#2) ∧
    s.cfgWord.getLsbD 2 = s.legacy4 ∧ s.cfgWord.extractLsb' 3 29 = 0#29 ∧
    (s.busy = false → s.schedule = w32Event s.build 0x010 w :: rest →
      ∃ sel, step s = .next { s with alphaSel := sel, legacy4 := w.getLsbD 2, schedule := rest, response := .ack } ∧
        (w.extractLsb' 0 2 = 0#2 → sel = .lexicographic) ∧ (w.extractLsb' 0 2 = 1#2 → sel = .base64like) ∧
        (w.extractLsb' 0 2 = 2#2 → sel = .natural) ∧ (w.extractLsb' 0 2 = 3#2 → sel = s.alphaSel))

/-- R42: a host write of IN_LEN while BUSY = 0 stores all 32 bits and changes nothing else, and a read that follows it
returns them. -/
def Obligations.IdleInLenWriteIsStoredAndReadBack : Prop :=
  ∀ (s : State) (w : Word), s.busy = false →
    (∀ rest, s.schedule = w32Event s.build 0x020 w :: rest →
      step s = .next { s with inLen := w, schedule := rest, response := .ack }) ∧
    ∀ rest, s.schedule = w32Event s.build 0x020 w :: .host (.read (s.build.base + 0x020) 4) :: rest →
      core.run 2 s = .next { s with inLen := w, schedule := rest, response := .data (lanesOfWord w) }

/-- R35: a CTRL write is honoured whatever BUSY is; without SRST it writes IE and nothing else, with SRST it performs the
soft reset and IE ends at 0. CTRL reads IE in bit 0 and zero elsewhere. -/
def Obligations.CtrlWritesIeOrResets : Prop :=
  ∀ (s : State) (rest : List Event) (w : Word),
    s.ctrlWord.getLsbD 0 = s.ie ∧ s.ctrlWord.extractLsb' 1 31 = 0#31 ∧
    (s.schedule = w32Event s.build 0x014 w :: rest →
      (w.getLsbD 31 = false → step s = .next { s with ie := w.getLsbD 0, schedule := rest, response := .ack }) ∧
      (w.getLsbD 31 = true → ∃ t, step s = .next t ∧ t.RegistersReset ∧ t.ie = false))

/-- R83, R86, R89: in a legal build an access at an offset of the window that is not one of the allowed widths and alignments
gets a bus error and changes nothing else; an allowed one does not, and an allowed read changes only the response. -/
def Obligations.OnlyAllowedAccessesAvoidTheBusError : Prop :=
  ∀ (s : State) (a : Access) (off : Nat) (rest : List Event), s.build.WellFormed → off < 0x30000 →
    a.addr = s.build.base + off → s.schedule = .host a :: rest →
    (¬ AllowedAccess s.build off a.width → step s = .next { s with schedule := rest, response := .busError }) ∧
    (AllowedAccess s.build off a.width → ∃ t, step s = .next t ∧ t.response ≠ .busError ∧
      (∀ addr width, a = .read addr width → t = { s with schedule := rest, response := t.response }))

/-- R84: byte k of an access travels on data bits [8k+7:8k]. A read of 1, 2 or 4 bytes of IBUF or OBUF, whatever BUSY is,
carries the byte at index i + k on lane k; a word read gathers its four bytes, the lowest index least significant. -/
def Obligations.BusLanesAreLittleEndian : Prop :=
  (∀ (w : Word) (k : Nat), k < 4 → (lanesOfWord w)[k]? = some (w.extractLsb' (8 * k) 8) ∧
    wordOfLanes (lanesOfWord w) = w) ∧
  (∀ (s : State) (rest : List Event) (i width : Nat), s.build.WellFormed →
    (BufferAccess s.build.ibufBytes i width → s.schedule = .host (.read (s.build.base + (0x10000 + i)) width) :: rest →
      ∃ lanes : List Byte, step s = .next { s with schedule := rest, response := .data lanes } ∧ lanes.length = width ∧
        ∀ k, k < width → lanes[k]? = some (s.ibufAt (i + k))) ∧
    (BufferAccess s.build.obufBytes i width → s.schedule = .host (.read (s.build.base + (0x20000 + i)) width) :: rest →
      ∃ lanes : List Byte, step s = .next { s with schedule := rest, response := .data lanes } ∧ lanes.length = width ∧
        ∀ k, k < width → lanes[k]? = some (s.obufAt (i + k)))) ∧
  ∀ (s : State) (rest : List Event) (j : Nat), s.build.WellFormed →
    (4 * j + 4 ≤ s.build.ibufBytes → s.schedule = .host (.read (s.build.base + (0x10000 + 4 * j)) 4) :: rest →
      step s = .next { s with schedule := rest, response := .data (lanesOfWord
        ((s.ibufAt (4 * j)).setWidth 32 ||| (s.ibufAt (4 * j + 1)).setWidth 32 <<< 8 |||
          (s.ibufAt (4 * j + 2)).setWidth 32 <<< 16 ||| (s.ibufAt (4 * j + 3)).setWidth 32 <<< 24)) }) ∧
    (4 * j + 4 ≤ s.build.obufBytes → s.schedule = .host (.read (s.build.base + (0x20000 + 4 * j)) 4) :: rest →
      step s = .next { s with schedule := rest, response := .data (lanesOfWord
        ((s.obufAt (4 * j)).setWidth 32 ||| (s.obufAt (4 * j + 1)).setWidth 32 <<< 8 |||
          (s.obufAt (4 * j + 2)).setWidth 32 <<< 16 ||| (s.obufAt (4 * j + 3)).setWidth 32 <<< 24)) })

/-- R45, R84, R89: an allowed host write of IBUF while BUSY = 0 stores its lanes at its indices, leaves every other byte and
every register alone, and keeps the buffer's canonical form. -/
def Obligations.IbufWriteStoresItsLanesOnly : Prop :=
  ∀ (s : State) (rest : List Event) (i : Nat) (lanes : List Byte), s.build.WellFormed → s.busy = false →
    BufferAccess s.build.ibufBytes i lanes.length →
    s.schedule = .host (.write (s.build.base + (0x10000 + i)) lanes) :: rest →
    ∃ t, step s = .next t ∧ t = { s with ibuf := t.ibuf, schedule := rest, response := .ack } ∧
      (∀ k x, lanes[k]? = some x → t.ibufAt (i + k) = x) ∧
      (∀ j, j < i ∨ i + lanes.length ≤ j → t.ibufAt j = s.ibufAt j) ∧
      (Memory.wf s.build.ibufBytes s.ibuf → Memory.wf t.build.ibufBytes t.ibuf)

/-- R87, R88: an allowed host write of OBUF or of a read-only register is ignored without a bus error and without setting
WIGN, whatever BUSY is. -/
def Obligations.ReadOnlyTargetsIgnoreWrites : Prop :=
  ∀ (s : State) (rest : List Event), s.build.WellFormed →
    (∀ i lanes, BufferAccess s.build.obufBytes i lanes.length →
      s.schedule = .host (.write (s.build.base + (0x20000 + i)) lanes) :: rest →
      step s = .next { s with schedule := rest, response := .ack }) ∧
    ∀ (off : Nat) (w : Word), off ∈ [0x000, 0x004, 0x008, 0x00C, 0x024, 0x028, 0x02C] →
      s.schedule = w32Event s.build off w :: rest → step s = .next { s with schedule := rest, response := .ack }

/-- R262: while BUSY = 1 a write of CMD, CFG, IN_LEN or IBUF only sets WIGN, STATUS and CTRL writes are honoured, writes of
read-only targets are ignored, reads return the values from before the commit, and no host access that leaves BUSY = 1
changes an input of the command in flight. -/
def Obligations.BusyWindowFreezesTheInputs : Prop :=
  ∀ (s : State) (rest : List Event), s.build.WellFormed → s.busy = true →
    (∀ (off : Nat) (w : Word), off ∈ [0x010, 0x01C, 0x020] → s.schedule = w32Event s.build off w :: rest →
      step s = .next { s with wign := true, schedule := rest, response := .ack }) ∧
    (∀ i lanes, BufferAccess s.build.ibufBytes i lanes.length →
      s.schedule = .host (.write (s.build.base + (0x10000 + i)) lanes) :: rest →
      step s = .next { s with wign := true, schedule := rest, response := .ack }) ∧
    (∀ w : Word, s.schedule = w32Event s.build 0x018 w :: rest →
      step s = .next { s with done := s.done && !w.getLsbD 1, wign := s.wign && !w.getLsbD 3,
                              schedule := rest, response := .ack }) ∧
    (∀ w : Word, s.schedule = w32Event s.build 0x014 w :: rest →
      (w.getLsbD 31 = false → step s = .next { s with ie := w.getLsbD 0, schedule := rest, response := .ack }) ∧
      (w.getLsbD 31 = true → ∃ t, step s = .next t ∧ t.RegistersReset)) ∧
    (∀ (off : Nat) (w : Word), off ∈ [0x000, 0x004, 0x008, 0x00C, 0x024, 0x028, 0x02C] →
      s.schedule = w32Event s.build off w :: rest → step s = .next { s with schedule := rest, response := .ack }) ∧
    (∀ i lanes, BufferAccess s.build.obufBytes i lanes.length →
      s.schedule = .host (.write (s.build.base + (0x20000 + i)) lanes) :: rest →
      step s = .next { s with schedule := rest, response := .ack }) ∧
    (s.schedule = .host (.read (s.build.base + 0x024) 4) :: rest →
      step s = .next { s with schedule := rest, response := .data (lanesOfWord s.outLen) }) ∧
    (s.schedule = .host (.read (s.build.base + 0x028) 4) :: rest →
      step s = .next { s with schedule := rest, response := .data (lanesOfWord s.result) }) ∧
    (∀ i width, BufferAccess s.build.obufBytes i width →
      s.schedule = .host (.read (s.build.base + (0x20000 + i)) width) :: rest →
      step s = .next { s with schedule := rest, response := .data ((List.range' i width).map s.obufAt) }) ∧
    (∀ off width, AllowedAccess s.build off width → s.schedule = .host (.read (s.build.base + off) width) :: rest →
      ∃ lanes, step s = .next { s with schedule := rest, response := .data lanes }) ∧
    ∀ a t, s.schedule = .host a :: rest → step s = .next t → t.busy = true →
      t.cmd = s.cmd ∧ t.inLen = s.inLen ∧ t.alphaSel = s.alphaSel ∧ t.legacy4 = s.legacy4 ∧ SameIbuf s t

/-! ### Resets, interrupt and flags -/

/-- R222, R263: a CTRL write with bit 31 set puts every register at its reset value, abandons the command in flight, drops
IRQ and keeps every byte of both buffers, whatever BUSY is. -/
def Obligations.SoftResetKeepsTheBuffers : Prop :=
  ∀ (s : State) (rest : List Event) (w : Word), w.getLsbD 31 = true →
    s.schedule = w32Event s.build 0x014 w :: rest →
    ∃ t, step s = .next t ∧ t.RegistersReset ∧ t.busy = false ∧ t.irq = false ∧ SameIbuf s t ∧ SameObuf s t ∧
      t.build = s.build ∧ t.schedule = rest

/-- R51, R260, R261: the reset state and the state after a power-on reset have every register at its reset value, no
command in flight, IRQ 0, and buffers whose bytes are the free power-on values. The model's choices: the epoch that selects
them (log entry 3), and that a power-on reset keeps the build and the rest of the schedule (log entry 13). -/
def Obligations.PowerOnResetsRegistersAndFreesTheBuffers : Prop :=
  (State.reset.RegistersReset ∧ State.reset.busy = false ∧ State.reset.irq = false ∧
    ∀ i, State.reset.ibufAt i = Config.ibuf0 State.reset.epoch i ∧
      State.reset.obufAt i = Config.obuf0 State.reset.epoch i) ∧
  ∀ (s : State) (rest : List Event), s.schedule = .powerOn :: rest →
    ∃ t, step s = .next t ∧ t.RegistersReset ∧ t.busy = false ∧ t.irq = false ∧ t.build = s.build ∧ t.schedule = rest ∧
      t.epoch ≠ s.epoch ∧ ∀ i, t.ibufAt i = Config.ibuf0 t.epoch i ∧ t.obufAt i = Config.obuf0 t.epoch i

/-- R241: IRQ = CTRL.IE AND STATUS.DONE. A step raises it only by a commit with IE = 1, or by a CTRL write that sets IE while
DONE = 1; a STATUS write of 1 to DONE, an accept, a CTRL write with IE = 0 and a reset leave it 0. -/
def Obligations.IrqIsRaisedOnlyByCompletion : Prop :=
  (∀ s : State, s.irq = (s.ie && s.done)) ∧ State.reset.irq = false ∧
  (∀ s t : State, step s = .next t → s.irq = false → t.irq = true →
    (s.busy = true ∧ t.busy = false ∧ s.ie = true ∧ ∃ rest, s.CoreTurnNext rest) ∨
    (s.done = true ∧ s.ie = false ∧ ∃ lanes rest,
      s.schedule = .host (.write (s.build.base + 0x14) lanes) :: rest ∧ (wordOfLanes lanes).getLsbD 0 = true)) ∧
  ∀ (s t : State) (w : Word) (rest : List Event), step s = .next t →
    (s.schedule = w32Event s.build 0x018 w :: rest → w.getLsbD 1 = true → t.irq = false) ∧
    (s.schedule = w32Event s.build 0x01C w :: rest → s.busy = false → t.irq = false) ∧
    (s.schedule = w32Event s.build 0x014 w :: rest → w.getLsbD 0 = false ∨ w.getLsbD 31 = true → t.irq = false) ∧
    (s.schedule = .powerOn :: rest → t.irq = false)

/-- R37, R38: an accept sets BUSY and clears DONE, the commit clears BUSY and sets DONE, a reset clears both, and a STATUS
write of 1 to bit 1 clears DONE; nothing else changes either. -/
def Obligations.BusyAndDoneChangeOnlyByTheLifecycle : Prop :=
  ∀ s t : State, step s = .next t →
    (∀ w rest, s.schedule = w32Event s.build 0x01C w :: rest → s.busy = false → t.busy = true ∧ t.done = false) ∧
    (∀ rest, s.CoreTurnNext rest → s.busy = true → t.busy = false ∧ t.done = true) ∧
    (s.ResetNext → t.busy = false ∧ t.done = false) ∧
    (∀ w rest, s.schedule = w32Event s.build 0x018 w :: rest → w.getLsbD 1 = true → t.done = false) ∧
    (s.busy = false → t.busy = true → t.done = false ∧ ∃ lanes rest,
      s.schedule = .host (.write (s.build.base + 0x1C) lanes) :: rest ∧ t.cmd = wordOfLanes lanes) ∧
    (s.busy = true → t.busy = false → (t.done = true ∧ ∃ rest, s.CoreTurnNext rest) ∨ s.ResetNext) ∧
    (s.done = false → t.done = true → s.busy = true ∧ t.busy = false ∧ ∃ rest, s.CoreTurnNext rest) ∧
    (s.done = true → t.done = false → s.ResetNext ∨ (s.busy = false ∧ t.busy = true) ∨ ∃ lanes rest,
      s.schedule = .host (.write (s.build.base + 0x18) lanes) :: rest ∧ (wordOfLanes lanes).getLsbD 1 = true)

/-- R40: an ignored write of CMD, CFG, IN_LEN or IBUF while BUSY = 1 sets WIGN and nothing else sets it; a STATUS write of 1
to bit 3 and a reset clear it and nothing else does; an accept does not clear it. -/
def Obligations.WignIsSticky : Prop :=
  ∀ s t : State, step s = .next t →
    (∀ off w rest, off ∈ [0x010, 0x01C, 0x020] → s.schedule = w32Event s.build off w :: rest → s.busy = true →
      t.wign = true) ∧
    (∀ i lanes rest, s.build.WellFormed → BufferAccess s.build.ibufBytes i lanes.length →
      s.schedule = .host (.write (s.build.base + (0x10000 + i)) lanes) :: rest → s.busy = true → t.wign = true) ∧
    (∀ w rest, s.schedule = w32Event s.build 0x018 w :: rest → w.getLsbD 3 = true → t.wign = false) ∧
    (s.ResetNext → t.wign = false) ∧
    (s.wign = false → t.wign = true → s.busy = true ∧ ∃ off lanes rest,
      s.schedule = .host (.write (s.build.base + off) lanes) :: rest ∧
      (off ∈ [0x010, 0x01C, 0x020] ∨ 0x10000 ≤ off ∧ off < 0x10000 + s.build.ibufBytes)) ∧
    (s.wign = true → t.wign = false → s.ResetNext ∨ ∃ lanes rest,
      s.schedule = .host (.write (s.build.base + 0x18) lanes) :: rest ∧ (wordOfLanes lanes).getLsbD 3 = true) ∧
    (s.wign = true → s.busy = false → t.busy = true → t.wign = true)

/-! ### The whole machine -/

/-- The invariant holds right after reset. -/
def Obligations.ResetStateMeetsTheInvariant : Prop := State.reset.Inv

/-- Every step keeps the invariant: a legal build, canonical buffers inside their capacity (so no commit overruns OBUF,
R10), a consistent error record (R39, R230, R236), no DONE or ERR while a command is in flight (R240), and an OUT_LEN that
fits OBUF. -/
def Obligations.EveryStepKeepsTheMachineInvariant : Prop :=
  ∀ s t : State, s.Inv → step s = .next t → t.Inv

/-- R236, R268: every accepted command ends. From a state with BUSY = 1 whose scheduled accesses are all in the window,
BUSY is 0 after at most one step more than the schedule has events. The bound is the model's choice of how the fairness of
R268 is held (log entry 5). -/
def Obligations.EveryAcceptedCommandEnds : Prop :=
  ∀ s : State, s.busy = true → s.ScheduleInWindow →
    ∃ k t, k ≤ s.schedule.length + 1 ∧ core.run k s = .next t ∧ t.busy = false

/-- The model's choice for the addresses that R83 leaves to the platform (log entry 6): a step stops only at a host access
outside the block's window, and then with the platform's fault; no step refuses a command. -/
def Obligations.OnlyPlatformAddressesStopTheMachine : Prop :=
  ∀ s : State,
    ((∃ a rest, s.schedule = .host a :: rest ∧ windowOffset s.build a.addr = none) → step s = .fault .platformAddress) ∧
    ((∀ a rest, s.schedule = .host a :: rest → s.build.base ≤ a.addr ∧ a.addr < s.build.base + 0x30000) →
      ∃ t, step s = .next t)
end

