-- ==== Sys2Proof/Laws/Memory.lean ====
section
/-! SUPPORT. The laws of buffer memory: a read after a write, what a write leaves alone, and that every memory operation
keeps the canonical form. -/

namespace Sys2Proof.Machine

@[simp] theorem Memory.read?_nil (a : Nat) : Memory.read? [] a = none := rfl

theorem Memory.read?_write (m : Memory) (a c : Nat) (b : Byte) :
    Memory.read? (Memory.write m a b) c = if c = a then some b else Memory.read? m c := by
  induction m with
  | nil => simp only [Memory.write, Memory.read?, eq_comm]
  | cons p rest ih =>
    obtain ⟨x, y⟩ := p
    simp only [Memory.write]
    split
    · simp only [Memory.read?, eq_comm]
    · split
      · subst a
        simp only [Memory.read?]
        by_cases h : x = c
        · simp [h]
        · simp [h, show ¬ c = x from fun e => h e.symm]
      · simp only [Memory.read?, ih]
        by_cases h : x = c
        · subst h; simp [show ¬ x = a by omega]
        · simp [h]

/-- Read after a sequence of writes: the written byte inside the range, the old contents outside it. -/
theorem Memory.read?_writeAll (bytes : List Byte) (m : Memory) (a c : Nat) :
    Memory.read? (Memory.writeAll m a bytes) c =
      if a ≤ c ∧ c < a + bytes.length then bytes[c - a]? else Memory.read? m c := by
  induction bytes generalizing m a with
  | nil => simp [Memory.writeAll]
  | cons b rest ih =>
    simp only [Memory.writeAll, ih, Memory.read?_write, List.length_cons]
    rcases lt_trichotomy c a with h | h | h
    · rw [if_neg (by omega), if_neg (by omega), if_neg (by omega)]
    · subst h; simp
    · by_cases hc : c < a + (rest.length + 1)
      · rw [if_pos ⟨by omega, by omega⟩, if_pos ⟨by omega, by omega⟩,
          show c - a = (c - (a + 1)) + 1 by omega, List.getElem?_cons_succ]
      · rw [if_neg (by omega), if_neg (by omega), if_neg (by omega)]

theorem Memory.mem_write {m : Memory} {a : Nat} {b : Byte} {c : Host.Cell} (h : c ∈ Memory.write m a b) :
    c = (a, b) ∨ c ∈ m := by
  induction m with
  | nil => simpa [Memory.write] using h
  | cons p rest ih =>
    obtain ⟨x, y⟩ := p
    simp only [Memory.write] at h
    split at h
    · simpa using h
    · split at h
      · rcases List.mem_cons.1 h with h | h
        · exact .inl h
        · exact .inr (List.mem_cons_of_mem _ h)
      · rcases List.mem_cons.1 h with h | h
        · exact .inr (by simp [h])
        · exact (ih h).imp id (List.mem_cons_of_mem _)

theorem Memory.wf_nil (size : Nat) : Memory.wf size [] := ⟨List.Pairwise.nil, fun _ h => by simp at h⟩

/-- A write inside the buffer keeps the canonical form. -/
theorem Memory.wf_write {size : Nat} {m : Memory} {a : Nat} (b : Byte) (h : Memory.wf size m) (ha : a < size) :
    Memory.wf size (Memory.write m a b) := by
  refine ⟨?_, fun c hc => ?_⟩
  · have hp := h.1
    clear h
    induction m with
    | nil => simp [Memory.write]
    | cons p rest ih =>
      obtain ⟨x, y⟩ := p
      obtain ⟨hx, hr⟩ := List.pairwise_cons.1 hp
      simp only [Memory.write]
      split
      · refine List.pairwise_cons.2 ⟨fun c hc => ?_, hp⟩
        rcases List.mem_cons.1 hc with rfl | hc
        · assumption
        · exact lt_trans ‹a < x› (hx c hc)
      · split
        · subst a; exact List.pairwise_cons.2 ⟨hx, hr⟩
        · refine List.pairwise_cons.2 ⟨fun c hc => ?_, ih hr⟩
          rcases Memory.mem_write hc with rfl | hc
          · show x < a
            omega
          · exact hx c hc
  · rcases Memory.mem_write hc with rfl | hc
    · exact ha
    · exact h.2 c hc

/-- A sequence of writes inside the buffer keeps the canonical form. -/
theorem Memory.wf_writeAll {size : Nat} (bytes : List Byte) {m : Memory} {a : Nat} (h : Memory.wf size m)
    (ha : a + bytes.length ≤ size) : Memory.wf size (Memory.writeAll m a bytes) := by
  induction bytes generalizing m a with
  | nil => exact h
  | cons b rest ih =>
    rw [List.length_cons] at ha
    exact ih (Memory.wf_write b h (by omega)) (by omega)

/-- IBUF after a host write: the written lanes, and every other byte as before (10_state.md R45). -/
theorem State.ibufAt_writeIbuf (s : State) (i j : Nat) (bytes : List Byte) :
    (s.writeIbuf i bytes).ibufAt j =
      if h : i ≤ j ∧ j < i + bytes.length then bytes[j - i]'(by omega) else s.ibufAt j := by
  simp only [State.ibufAt, State.writeIbuf, Memory.read?_writeAll]
  split
  · rw [List.getElem?_eq_getElem (by omega)]; simp
  · rfl

/-- OBUF after the commit of an output: the output below its length, and the old bytes from there on (10_state.md R46). -/
theorem State.obufAt_output (s : State) (j : Nat) (out : List Byte) :
    (s.applyEffects (.output out)).obufAt j = if h : j < out.length then out[j] else s.obufAt j := by
  simp only [State.obufAt, State.applyEffects, Memory.read?_writeAll]
  by_cases h : j < out.length
  · simp [h]
  · simp [h]

end Sys2Proof.Machine
end

