-- ==== Sys2Proof/Laws/State.lean ====
section
/-! SUPPORT. The fields of the state after each update: one lemma per field per update, each true by rfl, so that no proof
unfolds a record update. -/

namespace Sys2Proof.Machine

/-! ### ignoreWrite -/

@[simp] theorem State.ignoreWrite_build (s : State) : s.ignoreWrite.build = s.build := rfl
@[simp] theorem State.ignoreWrite_alphaSel (s : State) : s.ignoreWrite.alphaSel = s.alphaSel := rfl
@[simp] theorem State.ignoreWrite_legacy4 (s : State) : s.ignoreWrite.legacy4 = s.legacy4 := rfl
@[simp] theorem State.ignoreWrite_ie (s : State) : s.ignoreWrite.ie = s.ie := rfl
@[simp] theorem State.ignoreWrite_busy (s : State) : s.ignoreWrite.busy = s.busy := rfl
@[simp] theorem State.ignoreWrite_done (s : State) : s.ignoreWrite.done = s.done := rfl
@[simp] theorem State.ignoreWrite_err (s : State) : s.ignoreWrite.err = s.err := rfl
@[simp] theorem State.ignoreWrite_wign (s : State) : s.ignoreWrite.wign = true := rfl
@[simp] theorem State.ignoreWrite_errCode (s : State) : s.ignoreWrite.errCode = s.errCode := rfl
@[simp] theorem State.ignoreWrite_cmd (s : State) : s.ignoreWrite.cmd = s.cmd := rfl
@[simp] theorem State.ignoreWrite_inLen (s : State) : s.ignoreWrite.inLen = s.inLen := rfl
@[simp] theorem State.ignoreWrite_outLen (s : State) : s.ignoreWrite.outLen = s.outLen := rfl
@[simp] theorem State.ignoreWrite_result (s : State) : s.ignoreWrite.result = s.result := rfl
@[simp] theorem State.ignoreWrite_errInfo (s : State) : s.ignoreWrite.errInfo = s.errInfo := rfl
@[simp] theorem State.ignoreWrite_ibuf (s : State) : s.ignoreWrite.ibuf = s.ibuf := rfl
@[simp] theorem State.ignoreWrite_obuf (s : State) : s.ignoreWrite.obuf = s.obuf := rfl
@[simp] theorem State.ignoreWrite_epoch (s : State) : s.ignoreWrite.epoch = s.epoch := rfl
@[simp] theorem State.ignoreWrite_schedule (s : State) : s.ignoreWrite.schedule = s.schedule := rfl
@[simp] theorem State.ignoreWrite_response (s : State) : s.ignoreWrite.response = s.response := rfl

/-! ### writeIbuf -/

@[simp] theorem State.writeIbuf_build (s : State) (i : Nat) (bytes : List Byte) : (s.writeIbuf i bytes).build = s.build := rfl
@[simp] theorem State.writeIbuf_alphaSel (s : State) (i : Nat) (bytes : List Byte) : (s.writeIbuf i bytes).alphaSel = s.alphaSel := rfl
@[simp] theorem State.writeIbuf_legacy4 (s : State) (i : Nat) (bytes : List Byte) : (s.writeIbuf i bytes).legacy4 = s.legacy4 := rfl
@[simp] theorem State.writeIbuf_ie (s : State) (i : Nat) (bytes : List Byte) : (s.writeIbuf i bytes).ie = s.ie := rfl
@[simp] theorem State.writeIbuf_busy (s : State) (i : Nat) (bytes : List Byte) : (s.writeIbuf i bytes).busy = s.busy := rfl
@[simp] theorem State.writeIbuf_done (s : State) (i : Nat) (bytes : List Byte) : (s.writeIbuf i bytes).done = s.done := rfl
@[simp] theorem State.writeIbuf_err (s : State) (i : Nat) (bytes : List Byte) : (s.writeIbuf i bytes).err = s.err := rfl
@[simp] theorem State.writeIbuf_wign (s : State) (i : Nat) (bytes : List Byte) : (s.writeIbuf i bytes).wign = s.wign := rfl
@[simp] theorem State.writeIbuf_errCode (s : State) (i : Nat) (bytes : List Byte) : (s.writeIbuf i bytes).errCode = s.errCode := rfl
@[simp] theorem State.writeIbuf_cmd (s : State) (i : Nat) (bytes : List Byte) : (s.writeIbuf i bytes).cmd = s.cmd := rfl
@[simp] theorem State.writeIbuf_inLen (s : State) (i : Nat) (bytes : List Byte) : (s.writeIbuf i bytes).inLen = s.inLen := rfl
@[simp] theorem State.writeIbuf_outLen (s : State) (i : Nat) (bytes : List Byte) : (s.writeIbuf i bytes).outLen = s.outLen := rfl
@[simp] theorem State.writeIbuf_result (s : State) (i : Nat) (bytes : List Byte) : (s.writeIbuf i bytes).result = s.result := rfl
@[simp] theorem State.writeIbuf_errInfo (s : State) (i : Nat) (bytes : List Byte) : (s.writeIbuf i bytes).errInfo = s.errInfo := rfl
@[simp] theorem State.writeIbuf_ibuf (s : State) (i : Nat) (bytes : List Byte) : (s.writeIbuf i bytes).ibuf = Memory.writeAll s.ibuf i bytes := rfl
@[simp] theorem State.writeIbuf_obuf (s : State) (i : Nat) (bytes : List Byte) : (s.writeIbuf i bytes).obuf = s.obuf := rfl
@[simp] theorem State.writeIbuf_epoch (s : State) (i : Nat) (bytes : List Byte) : (s.writeIbuf i bytes).epoch = s.epoch := rfl
@[simp] theorem State.writeIbuf_schedule (s : State) (i : Nat) (bytes : List Byte) : (s.writeIbuf i bytes).schedule = s.schedule := rfl
@[simp] theorem State.writeIbuf_response (s : State) (i : Nat) (bytes : List Byte) : (s.writeIbuf i bytes).response = s.response := rfl

/-! ### accept -/

@[simp] theorem State.accept_build (s : State) (w : Word) : (s.accept w).build = s.build := rfl
@[simp] theorem State.accept_alphaSel (s : State) (w : Word) : (s.accept w).alphaSel = s.alphaSel := rfl
@[simp] theorem State.accept_legacy4 (s : State) (w : Word) : (s.accept w).legacy4 = s.legacy4 := rfl
@[simp] theorem State.accept_ie (s : State) (w : Word) : (s.accept w).ie = s.ie := rfl
@[simp] theorem State.accept_busy (s : State) (w : Word) : (s.accept w).busy = true := rfl
@[simp] theorem State.accept_done (s : State) (w : Word) : (s.accept w).done = false := rfl
@[simp] theorem State.accept_err (s : State) (w : Word) : (s.accept w).err = false := rfl
@[simp] theorem State.accept_wign (s : State) (w : Word) : (s.accept w).wign = s.wign := rfl
@[simp] theorem State.accept_errCode (s : State) (w : Word) : (s.accept w).errCode = 0#4 := rfl
@[simp] theorem State.accept_cmd (s : State) (w : Word) : (s.accept w).cmd = w := rfl
@[simp] theorem State.accept_inLen (s : State) (w : Word) : (s.accept w).inLen = s.inLen := rfl
@[simp] theorem State.accept_outLen (s : State) (w : Word) : (s.accept w).outLen = s.outLen := rfl
@[simp] theorem State.accept_result (s : State) (w : Word) : (s.accept w).result = s.result := rfl
@[simp] theorem State.accept_errInfo (s : State) (w : Word) : (s.accept w).errInfo = 0#32 := rfl
@[simp] theorem State.accept_ibuf (s : State) (w : Word) : (s.accept w).ibuf = s.ibuf := rfl
@[simp] theorem State.accept_obuf (s : State) (w : Word) : (s.accept w).obuf = s.obuf := rfl
@[simp] theorem State.accept_epoch (s : State) (w : Word) : (s.accept w).epoch = s.epoch := rfl
@[simp] theorem State.accept_schedule (s : State) (w : Word) : (s.accept w).schedule = s.schedule := rfl
@[simp] theorem State.accept_response (s : State) (w : Word) : (s.accept w).response = s.response := rfl

/-! ### raise -/

@[simp] theorem State.raise_build (s : State) (k : ErrKind) (info : Nat) : (s.raise k info).build = s.build := rfl
@[simp] theorem State.raise_alphaSel (s : State) (k : ErrKind) (info : Nat) : (s.raise k info).alphaSel = s.alphaSel := rfl
@[simp] theorem State.raise_legacy4 (s : State) (k : ErrKind) (info : Nat) : (s.raise k info).legacy4 = s.legacy4 := rfl
@[simp] theorem State.raise_ie (s : State) (k : ErrKind) (info : Nat) : (s.raise k info).ie = s.ie := rfl
@[simp] theorem State.raise_busy (s : State) (k : ErrKind) (info : Nat) : (s.raise k info).busy = s.busy := rfl
@[simp] theorem State.raise_done (s : State) (k : ErrKind) (info : Nat) : (s.raise k info).done = s.done := rfl
@[simp] theorem State.raise_err (s : State) (k : ErrKind) (info : Nat) : (s.raise k info).err = true := rfl
@[simp] theorem State.raise_wign (s : State) (k : ErrKind) (info : Nat) : (s.raise k info).wign = s.wign := rfl
@[simp] theorem State.raise_errCode (s : State) (k : ErrKind) (info : Nat) : (s.raise k info).errCode = k.code := rfl
@[simp] theorem State.raise_cmd (s : State) (k : ErrKind) (info : Nat) : (s.raise k info).cmd = s.cmd := rfl
@[simp] theorem State.raise_inLen (s : State) (k : ErrKind) (info : Nat) : (s.raise k info).inLen = s.inLen := rfl
@[simp] theorem State.raise_outLen (s : State) (k : ErrKind) (info : Nat) : (s.raise k info).outLen = 0#32 := rfl
@[simp] theorem State.raise_result (s : State) (k : ErrKind) (info : Nat) : (s.raise k info).result = 0#32 := rfl
@[simp] theorem State.raise_errInfo (s : State) (k : ErrKind) (info : Nat) : (s.raise k info).errInfo = BitVec.ofNat 32 info := rfl
@[simp] theorem State.raise_ibuf (s : State) (k : ErrKind) (info : Nat) : (s.raise k info).ibuf = s.ibuf := rfl
@[simp] theorem State.raise_obuf (s : State) (k : ErrKind) (info : Nat) : (s.raise k info).obuf = s.obuf := rfl
@[simp] theorem State.raise_epoch (s : State) (k : ErrKind) (info : Nat) : (s.raise k info).epoch = s.epoch := rfl
@[simp] theorem State.raise_schedule (s : State) (k : ErrKind) (info : Nat) : (s.raise k info).schedule = s.schedule := rfl
@[simp] theorem State.raise_response (s : State) (k : ErrKind) (info : Nat) : (s.raise k info).response = s.response := rfl

/-! ### finish -/

@[simp] theorem State.finish_build (s : State) : s.finish.build = s.build := rfl
@[simp] theorem State.finish_alphaSel (s : State) : s.finish.alphaSel = s.alphaSel := rfl
@[simp] theorem State.finish_legacy4 (s : State) : s.finish.legacy4 = s.legacy4 := rfl
@[simp] theorem State.finish_ie (s : State) : s.finish.ie = s.ie := rfl
@[simp] theorem State.finish_busy (s : State) : s.finish.busy = false := rfl
@[simp] theorem State.finish_done (s : State) : s.finish.done = true := rfl
@[simp] theorem State.finish_err (s : State) : s.finish.err = s.err := rfl
@[simp] theorem State.finish_wign (s : State) : s.finish.wign = s.wign := rfl
@[simp] theorem State.finish_errCode (s : State) : s.finish.errCode = s.errCode := rfl
@[simp] theorem State.finish_cmd (s : State) : s.finish.cmd = s.cmd := rfl
@[simp] theorem State.finish_inLen (s : State) : s.finish.inLen = s.inLen := rfl
@[simp] theorem State.finish_outLen (s : State) : s.finish.outLen = s.outLen := rfl
@[simp] theorem State.finish_result (s : State) : s.finish.result = s.result := rfl
@[simp] theorem State.finish_errInfo (s : State) : s.finish.errInfo = s.errInfo := rfl
@[simp] theorem State.finish_ibuf (s : State) : s.finish.ibuf = s.ibuf := rfl
@[simp] theorem State.finish_obuf (s : State) : s.finish.obuf = s.obuf := rfl
@[simp] theorem State.finish_epoch (s : State) : s.finish.epoch = s.epoch := rfl
@[simp] theorem State.finish_schedule (s : State) : s.finish.schedule = s.schedule := rfl
@[simp] theorem State.finish_response (s : State) : s.finish.response = s.response := rfl

/-! ### writeStatus -/

@[simp] theorem State.writeStatus_build (s : State) (w : Word) : (s.writeStatus w).build = s.build := rfl
@[simp] theorem State.writeStatus_alphaSel (s : State) (w : Word) : (s.writeStatus w).alphaSel = s.alphaSel := rfl
@[simp] theorem State.writeStatus_legacy4 (s : State) (w : Word) : (s.writeStatus w).legacy4 = s.legacy4 := rfl
@[simp] theorem State.writeStatus_ie (s : State) (w : Word) : (s.writeStatus w).ie = s.ie := rfl
@[simp] theorem State.writeStatus_busy (s : State) (w : Word) : (s.writeStatus w).busy = s.busy := rfl
@[simp] theorem State.writeStatus_done (s : State) (w : Word) : (s.writeStatus w).done = (s.done && !w.getLsbD 1) := rfl
@[simp] theorem State.writeStatus_err (s : State) (w : Word) : (s.writeStatus w).err = s.err := rfl
@[simp] theorem State.writeStatus_wign (s : State) (w : Word) : (s.writeStatus w).wign = (s.wign && !w.getLsbD 3) := rfl
@[simp] theorem State.writeStatus_errCode (s : State) (w : Word) : (s.writeStatus w).errCode = s.errCode := rfl
@[simp] theorem State.writeStatus_cmd (s : State) (w : Word) : (s.writeStatus w).cmd = s.cmd := rfl
@[simp] theorem State.writeStatus_inLen (s : State) (w : Word) : (s.writeStatus w).inLen = s.inLen := rfl
@[simp] theorem State.writeStatus_outLen (s : State) (w : Word) : (s.writeStatus w).outLen = s.outLen := rfl
@[simp] theorem State.writeStatus_result (s : State) (w : Word) : (s.writeStatus w).result = s.result := rfl
@[simp] theorem State.writeStatus_errInfo (s : State) (w : Word) : (s.writeStatus w).errInfo = s.errInfo := rfl
@[simp] theorem State.writeStatus_ibuf (s : State) (w : Word) : (s.writeStatus w).ibuf = s.ibuf := rfl
@[simp] theorem State.writeStatus_obuf (s : State) (w : Word) : (s.writeStatus w).obuf = s.obuf := rfl
@[simp] theorem State.writeStatus_epoch (s : State) (w : Word) : (s.writeStatus w).epoch = s.epoch := rfl
@[simp] theorem State.writeStatus_schedule (s : State) (w : Word) : (s.writeStatus w).schedule = s.schedule := rfl
@[simp] theorem State.writeStatus_response (s : State) (w : Word) : (s.writeStatus w).response = s.response := rfl

/-! ### softReset -/

@[simp] theorem State.softReset_build (s : State) : s.softReset.build = s.build := rfl
@[simp] theorem State.softReset_alphaSel (s : State) : s.softReset.alphaSel = .lexicographic := rfl
@[simp] theorem State.softReset_legacy4 (s : State) : s.softReset.legacy4 = false := rfl
@[simp] theorem State.softReset_ie (s : State) : s.softReset.ie = false := rfl
@[simp] theorem State.softReset_busy (s : State) : s.softReset.busy = false := rfl
@[simp] theorem State.softReset_done (s : State) : s.softReset.done = false := rfl
@[simp] theorem State.softReset_err (s : State) : s.softReset.err = false := rfl
@[simp] theorem State.softReset_wign (s : State) : s.softReset.wign = false := rfl
@[simp] theorem State.softReset_errCode (s : State) : s.softReset.errCode = 0#4 := rfl
@[simp] theorem State.softReset_cmd (s : State) : s.softReset.cmd = 0#32 := rfl
@[simp] theorem State.softReset_inLen (s : State) : s.softReset.inLen = 0#32 := rfl
@[simp] theorem State.softReset_outLen (s : State) : s.softReset.outLen = 0#32 := rfl
@[simp] theorem State.softReset_result (s : State) : s.softReset.result = 0#32 := rfl
@[simp] theorem State.softReset_errInfo (s : State) : s.softReset.errInfo = 0#32 := rfl
@[simp] theorem State.softReset_ibuf (s : State) : s.softReset.ibuf = s.ibuf := rfl
@[simp] theorem State.softReset_obuf (s : State) : s.softReset.obuf = s.obuf := rfl
@[simp] theorem State.softReset_epoch (s : State) : s.softReset.epoch = s.epoch := rfl
@[simp] theorem State.softReset_schedule (s : State) : s.softReset.schedule = s.schedule := rfl
@[simp] theorem State.softReset_response (s : State) : s.softReset.response = s.response := rfl

/-! ### powerOnReset -/

@[simp] theorem State.powerOnReset_build (s : State) : s.powerOnReset.build = s.build := rfl
@[simp] theorem State.powerOnReset_alphaSel (s : State) : s.powerOnReset.alphaSel = .lexicographic := rfl
@[simp] theorem State.powerOnReset_legacy4 (s : State) : s.powerOnReset.legacy4 = false := rfl
@[simp] theorem State.powerOnReset_ie (s : State) : s.powerOnReset.ie = false := rfl
@[simp] theorem State.powerOnReset_busy (s : State) : s.powerOnReset.busy = false := rfl
@[simp] theorem State.powerOnReset_done (s : State) : s.powerOnReset.done = false := rfl
@[simp] theorem State.powerOnReset_err (s : State) : s.powerOnReset.err = false := rfl
@[simp] theorem State.powerOnReset_wign (s : State) : s.powerOnReset.wign = false := rfl
@[simp] theorem State.powerOnReset_errCode (s : State) : s.powerOnReset.errCode = 0#4 := rfl
@[simp] theorem State.powerOnReset_cmd (s : State) : s.powerOnReset.cmd = 0#32 := rfl
@[simp] theorem State.powerOnReset_inLen (s : State) : s.powerOnReset.inLen = 0#32 := rfl
@[simp] theorem State.powerOnReset_outLen (s : State) : s.powerOnReset.outLen = 0#32 := rfl
@[simp] theorem State.powerOnReset_result (s : State) : s.powerOnReset.result = 0#32 := rfl
@[simp] theorem State.powerOnReset_errInfo (s : State) : s.powerOnReset.errInfo = 0#32 := rfl
@[simp] theorem State.powerOnReset_ibuf (s : State) : s.powerOnReset.ibuf = [] := rfl
@[simp] theorem State.powerOnReset_obuf (s : State) : s.powerOnReset.obuf = [] := rfl
@[simp] theorem State.powerOnReset_epoch (s : State) : s.powerOnReset.epoch = s.epoch + 1 := rfl
@[simp] theorem State.powerOnReset_schedule (s : State) : s.powerOnReset.schedule = s.schedule := rfl
@[simp] theorem State.powerOnReset_response (s : State) : s.powerOnReset.response = .none := rfl

/-! ### writeCfg -/

@[simp] theorem State.writeCfg_build (s : State) (w : Word) : (s.writeCfg w).build = s.build := rfl
@[simp] theorem State.writeCfg_alphaSel (s : State) (w : Word) : (s.writeCfg w).alphaSel = selectAlpha s.alphaSel (w.extractLsb' 0 2) := rfl
@[simp] theorem State.writeCfg_legacy4 (s : State) (w : Word) : (s.writeCfg w).legacy4 = w.getLsbD 2 := rfl
@[simp] theorem State.writeCfg_ie (s : State) (w : Word) : (s.writeCfg w).ie = s.ie := rfl
@[simp] theorem State.writeCfg_busy (s : State) (w : Word) : (s.writeCfg w).busy = s.busy := rfl
@[simp] theorem State.writeCfg_done (s : State) (w : Word) : (s.writeCfg w).done = s.done := rfl
@[simp] theorem State.writeCfg_err (s : State) (w : Word) : (s.writeCfg w).err = s.err := rfl
@[simp] theorem State.writeCfg_wign (s : State) (w : Word) : (s.writeCfg w).wign = s.wign := rfl
@[simp] theorem State.writeCfg_errCode (s : State) (w : Word) : (s.writeCfg w).errCode = s.errCode := rfl
@[simp] theorem State.writeCfg_cmd (s : State) (w : Word) : (s.writeCfg w).cmd = s.cmd := rfl
@[simp] theorem State.writeCfg_inLen (s : State) (w : Word) : (s.writeCfg w).inLen = s.inLen := rfl
@[simp] theorem State.writeCfg_outLen (s : State) (w : Word) : (s.writeCfg w).outLen = s.outLen := rfl
@[simp] theorem State.writeCfg_result (s : State) (w : Word) : (s.writeCfg w).result = s.result := rfl
@[simp] theorem State.writeCfg_errInfo (s : State) (w : Word) : (s.writeCfg w).errInfo = s.errInfo := rfl
@[simp] theorem State.writeCfg_ibuf (s : State) (w : Word) : (s.writeCfg w).ibuf = s.ibuf := rfl
@[simp] theorem State.writeCfg_obuf (s : State) (w : Word) : (s.writeCfg w).obuf = s.obuf := rfl
@[simp] theorem State.writeCfg_epoch (s : State) (w : Word) : (s.writeCfg w).epoch = s.epoch := rfl
@[simp] theorem State.writeCfg_schedule (s : State) (w : Word) : (s.writeCfg w).schedule = s.schedule := rfl
@[simp] theorem State.writeCfg_response (s : State) (w : Word) : (s.writeCfg w).response = s.response := rfl

/-! ### writeInLen -/

@[simp] theorem State.writeInLen_build (s : State) (w : Word) : (s.writeInLen w).build = s.build := rfl
@[simp] theorem State.writeInLen_alphaSel (s : State) (w : Word) : (s.writeInLen w).alphaSel = s.alphaSel := rfl
@[simp] theorem State.writeInLen_legacy4 (s : State) (w : Word) : (s.writeInLen w).legacy4 = s.legacy4 := rfl
@[simp] theorem State.writeInLen_ie (s : State) (w : Word) : (s.writeInLen w).ie = s.ie := rfl
@[simp] theorem State.writeInLen_busy (s : State) (w : Word) : (s.writeInLen w).busy = s.busy := rfl
@[simp] theorem State.writeInLen_done (s : State) (w : Word) : (s.writeInLen w).done = s.done := rfl
@[simp] theorem State.writeInLen_err (s : State) (w : Word) : (s.writeInLen w).err = s.err := rfl
@[simp] theorem State.writeInLen_wign (s : State) (w : Word) : (s.writeInLen w).wign = s.wign := rfl
@[simp] theorem State.writeInLen_errCode (s : State) (w : Word) : (s.writeInLen w).errCode = s.errCode := rfl
@[simp] theorem State.writeInLen_cmd (s : State) (w : Word) : (s.writeInLen w).cmd = s.cmd := rfl
@[simp] theorem State.writeInLen_inLen (s : State) (w : Word) : (s.writeInLen w).inLen = w := rfl
@[simp] theorem State.writeInLen_outLen (s : State) (w : Word) : (s.writeInLen w).outLen = s.outLen := rfl
@[simp] theorem State.writeInLen_result (s : State) (w : Word) : (s.writeInLen w).result = s.result := rfl
@[simp] theorem State.writeInLen_errInfo (s : State) (w : Word) : (s.writeInLen w).errInfo = s.errInfo := rfl
@[simp] theorem State.writeInLen_ibuf (s : State) (w : Word) : (s.writeInLen w).ibuf = s.ibuf := rfl
@[simp] theorem State.writeInLen_obuf (s : State) (w : Word) : (s.writeInLen w).obuf = s.obuf := rfl
@[simp] theorem State.writeInLen_epoch (s : State) (w : Word) : (s.writeInLen w).epoch = s.epoch := rfl
@[simp] theorem State.writeInLen_schedule (s : State) (w : Word) : (s.writeInLen w).schedule = s.schedule := rfl
@[simp] theorem State.writeInLen_response (s : State) (w : Word) : (s.writeInLen w).response = s.response := rfl

/-! ### respond -/

@[simp] theorem State.respond_build (s : State) (r : Response) : (s.respond r).build = s.build := rfl
@[simp] theorem State.respond_alphaSel (s : State) (r : Response) : (s.respond r).alphaSel = s.alphaSel := rfl
@[simp] theorem State.respond_legacy4 (s : State) (r : Response) : (s.respond r).legacy4 = s.legacy4 := rfl
@[simp] theorem State.respond_ie (s : State) (r : Response) : (s.respond r).ie = s.ie := rfl
@[simp] theorem State.respond_busy (s : State) (r : Response) : (s.respond r).busy = s.busy := rfl
@[simp] theorem State.respond_done (s : State) (r : Response) : (s.respond r).done = s.done := rfl
@[simp] theorem State.respond_err (s : State) (r : Response) : (s.respond r).err = s.err := rfl
@[simp] theorem State.respond_wign (s : State) (r : Response) : (s.respond r).wign = s.wign := rfl
@[simp] theorem State.respond_errCode (s : State) (r : Response) : (s.respond r).errCode = s.errCode := rfl
@[simp] theorem State.respond_cmd (s : State) (r : Response) : (s.respond r).cmd = s.cmd := rfl
@[simp] theorem State.respond_inLen (s : State) (r : Response) : (s.respond r).inLen = s.inLen := rfl
@[simp] theorem State.respond_outLen (s : State) (r : Response) : (s.respond r).outLen = s.outLen := rfl
@[simp] theorem State.respond_result (s : State) (r : Response) : (s.respond r).result = s.result := rfl
@[simp] theorem State.respond_errInfo (s : State) (r : Response) : (s.respond r).errInfo = s.errInfo := rfl
@[simp] theorem State.respond_ibuf (s : State) (r : Response) : (s.respond r).ibuf = s.ibuf := rfl
@[simp] theorem State.respond_obuf (s : State) (r : Response) : (s.respond r).obuf = s.obuf := rfl
@[simp] theorem State.respond_epoch (s : State) (r : Response) : (s.respond r).epoch = s.epoch := rfl
@[simp] theorem State.respond_schedule (s : State) (r : Response) : (s.respond r).schedule = s.schedule := rfl
@[simp] theorem State.respond_response (s : State) (r : Response) : (s.respond r).response = r := rfl

end Sys2Proof.Machine
end

