-- ==== Sys2Proof/Laws/Commit.lean ====
section
/-! SUPPORT. What a commit can do, said once: the error case, the output case, the scalar case and the empty case
(60_exceptions.md R236), and what every meaning is: the commit of an outcome. -/

namespace Sys2Proof.Machine

/-- An error commit writes what R236 lists and nothing else. -/
theorem State.commit_error (s : State) (k : ErrKind) (info : Nat) : RaisedBy s (s.commit (.error (k, info))) k info where
  err := rfl
  errCode := rfl
  errInfo := rfl
  outLen := rfl
  result := rfl
  busy := rfl
  finished := rfl
  obuf := fun _ => rfl
  frame := ⟨rfl, rfl, rfl, rfl, rfl, rfl, rfl, fun _ => rfl, rfl, rfl, rfl⟩

/-- The commit of an output. -/
theorem State.commit_output (s : State) (out : List Byte) : WroteOutput s (s.commit (.ok (.output out))) out where
  outLen := rfl
  written := fun i h => (s.obufAt_output i out).trans (dif_pos h)
  kept := fun i h => (s.obufAt_output i out).trans (dif_neg (Nat.not_lt.2 h))
  result := rfl
  record := ⟨rfl, rfl, rfl⟩
  busy := rfl
  finished := rfl
  frame := ⟨rfl, rfl, rfl, rfl, rfl, rfl, rfl, fun _ => rfl, rfl, rfl, rfl⟩

/-- The commit of a scalar result. -/
theorem State.commit_scalar (s : State) (v : Nat) : WroteResult s (s.commit (.ok (.scalar v))) v where
  result := rfl
  outLen := rfl
  obuf := fun _ => rfl
  record := ⟨rfl, rfl, rfl⟩
  busy := rfl
  finished := rfl
  frame := ⟨rfl, rfl, rfl, rfl, rfl, rfl, rfl, fun _ => rfl, rfl, rfl, rfl⟩

/-- The commit without effect. -/
theorem State.commit_nothing (s : State) : s.commit (.ok .nothing) = { s with busy := false, done := true } := rfl

/-- The evaluation of each command, which its meaning commits. -/
def outcomeOf (s : State) : Instr → CmdOutcome
  | .nop => .ok .nothing
  | .enc => encOutcome s
  | .dec => decOutcome s
  | .lutd n => lookupOutcome (romDigits s.build.n n.toNat) .domain
  | .lutb d => lookupOutcome (bytesOf s.build.n d.toNat) .framing
  | .s2d c =>
    if symbolHighField c ≠ 0#8 then .error (.illegalCommand, 0)
    else lookupOutcome (romSym s.alphaSel (c.extractLsb' 0 8)) .alphabetMismatch
  | .d2s k => lookupOutcome (alphaEntry s.alphaSel k.toNat) .domain

/-- Every meaning is one commit (60_exceptions.md R236). -/
theorem exec_eq_commit (i : Instr) (s : State) : exec i s = .next (s.commit (outcomeOf s i)) := by
  cases i <;> rfl

@[simp] theorem lookupOutcome_some (v : Nat) (k : ErrKind) : lookupOutcome (some v) k = .ok (.scalar v) := rfl
@[simp] theorem lookupOutcome_none (k : ErrKind) : lookupOutcome none k = .error (k, 0) := rfl

/-- The length check lets an input that fits through (60_exceptions.md R235). -/
theorem State.checkedInput_ok {s : State} (h : s.inLen.toNat ≤ s.build.ibufBytes) : s.checkedInput = .ok s.input :=
  if_neg (Nat.not_lt.2 h)

/-- The length check stops an input that does not fit (60_exceptions.md R235). -/
theorem State.checkedInput_error {s : State} (h : s.build.ibufBytes < s.inLen.toNat) :
    s.checkedInput = .error (.length, 0) :=
  if_pos h

@[simp] theorem State.input_length (s : State) : s.input.length = s.inLen.toNat := by simp [State.input]

theorem State.input_getElem (s : State) (i : Nat) (h : i < s.input.length) : s.input[i] = s.ibufAt i := by
  simp [State.input]

end Sys2Proof.Machine
end

