-- ==== Sys2Proof/Laws/PerInstr.lean ====
section
/-! SUPPORT. The encoding of each command, field by field (30_encoding.md R111 to R113): OP is the command's operation
code, RSV is 0, and IMM16 is its operand. -/

namespace Sys2Proof

/-- The three fields of a word of format C (30_encoding.md R111). -/
theorem formatC_fields (op : BitVec 4) (imm : Imm16) :
    opField (formatC op imm) = op ∧ rsvField (formatC op imm) = 0#12 ∧ immField (formatC op imm) = imm := by
  refine ⟨?_, ?_, ?_⟩ <;> apply BitVec.eq_of_toNat_eq <;>
    simp only [opField, rsvField, immField, formatC, BitVec.extractLsb'_toNat, BitVec.toNat_append,
      Nat.shiftRight_eq_div_pow, Nat.shiftLeft_eq, BitVec.toNat_ofNat]
  all_goals
    have h1 := op.isLt
    have h2 := imm.isLt
    have e1 : imm.toNat * 2 ^ 12 ||| 0 % 2 ^ 12 = imm.toNat * 2 ^ 12 := by simp
    rw [e1, ← Nat.shiftLeft_eq (imm.toNat * 2 ^ 12) 4, ← Nat.shiftLeft_add_eq_or_of_lt (by omega), Nat.shiftLeft_eq]
    omega

namespace Laws.EncodedFields

/-- The fields of a command's word (30_encoding.md R111 to R113). -/
def Statement (i : Instr) : Prop :=
  opField (encode i) = opcode i ∧ rsvField (encode i) = 0#12 ∧ immField (encode i) = immediate i

theorem nop : Statement .nop := formatC_fields _ _
theorem enc : Statement .enc := formatC_fields _ _
theorem dec : Statement .dec := formatC_fields _ _
theorem lutd (n : Imm16) : Statement (.lutd n) := formatC_fields _ _
theorem lutb (d : Imm16) : Statement (.lutb d) := formatC_fields _ _
theorem s2d (c : Imm16) : Statement (.s2d c) := formatC_fields _ _
theorem d2s (k : Imm16) : Statement (.d2s k) := formatC_fields _ _

end Laws.EncodedFields

end Sys2Proof
end

