-- ==== Sys2Proof/Laws/Radix.lean ====
section
/-! SUPPORT. The laws of the radix converter: lengths, digit bounds, that digits and value are inverse, and how a sequence
is cut into pieces. -/

namespace Sys2Proof.Machine

@[simp] theorem radixDigits_length (base k v : Nat) : (radixDigits base k v).length = k := by
  induction k generalizing v with
  | zero => rfl
  | succ k ih => simp [radixDigits, ih]

theorem radixDigits_lt {base : Nat} (hb : 0 < base) (k v d : Nat) (h : d ∈ radixDigits base k v) : d < base := by
  induction k generalizing v with
  | zero => simp [radixDigits] at h
  | succ k ih =>
    rcases List.mem_append.1 h with h | h
    · exact ih _ h
    · rw [List.mem_singleton.1 h]; exact Nat.mod_lt _ hb

@[simp] theorem radixValue_nil (base : Nat) : radixValue base [] = 0 := rfl

theorem radixValue_concat (base d : Nat) (ds : List Nat) :
    radixValue base (ds ++ [d]) = radixValue base ds * base + d := by
  simp [radixValue]

/-- The k low digits spell the value modulo base^k. -/
theorem radixValue_radixDigits (base k v : Nat) : radixValue base (radixDigits base k v) = v % base ^ k := by
  induction k generalizing v with
  | zero => simp [radixDigits, Nat.mod_one]
  | succ k ih =>
    rw [radixDigits, radixValue_concat, ih, pow_succ', Nat.mod_mul]
    ring

theorem radixValue_lt {base : Nat} (ds : List Nat) (h : ∀ d ∈ ds, d < base) :
    radixValue base ds < base ^ ds.length := by
  induction ds using List.reverseRecOn with
  | nil => simp
  | append_singleton ds d ih =>
    have hd : d < base := h d (by simp)
    have hi := ih (fun x hx => h x (by simp [hx]))
    rw [radixValue_concat, List.length_append, List.length_singleton, pow_succ]
    nlinarith

/-- A digit sequence is recovered from its value and its length. -/
theorem radixDigits_radixValue {base : Nat} (ds : List Nat) (h : ∀ d ∈ ds, d < base) :
    radixDigits base ds.length (radixValue base ds) = ds := by
  induction ds using List.reverseRecOn with
  | nil => rfl
  | append_singleton ds d ih =>
    have hd : d < base := h d (by simp)
    rw [radixValue_concat, List.length_append, List.length_singleton, radixDigits,
      show (radixValue base ds * base + d) / base = radixValue base ds by
        rw [Nat.mul_comm, Nat.mul_add_div (by omega), Nat.div_eq_of_lt hd, Nat.add_zero],
      show (radixValue base ds * base + d) % base = d by
        rw [Nat.mul_comm, Nat.mul_add_mod, Nat.mod_eq_of_lt hd],
      ih (fun x hx => h x (by simp [hx]))]

@[simp] theorem pieces_nil {α : Type} (k : Nat) : pieces k ([] : List α) = [] := rfl

/-- Enough fuel is enough: the pieces do not depend on it. -/
theorem cut_fuel {α : Type} {k : Nat} (hk : 0 < k) (fuel : Nat) (xs : List α) (h : xs.length ≤ fuel) :
    cut k fuel xs = pieces k xs := by
  suffices key : ∀ f g (l : List α), l.length ≤ f → l.length ≤ g → cut k f l = cut k g l from
    key _ _ _ h le_rfl
  intro f
  induction f with
  | zero =>
    intro g l hf _
    cases l with
    | nil => cases g <;> rfl
    | cons x xs => simp at hf
  | succ f ih =>
    intro g l hf hg
    cases l with
    | nil => cases g <;> rfl
    | cons x xs =>
      cases g with
      | zero => simp at hg
      | succ g =>
        simp only [cut]
        rw [ih g _ (by simp only [List.length_drop, List.length_cons] at *; omega)
          (by simp only [List.length_drop, List.length_cons] at *; omega)]

/-- The first piece of a non-empty sequence, and the pieces of the rest. -/
theorem pieces_step {α : Type} {k : Nat} (hk : 0 < k) {xs : List α} (h : xs ≠ []) :
    pieces k xs = xs.take k :: pieces k (xs.drop k) := by
  cases xs with
  | nil => exact absurd rfl h
  | cons x xs =>
    rw [pieces, List.length_cons, cut, cut_fuel hk]
    simp only [List.length_drop, List.length_cons]
    omega

end Sys2Proof.Machine
end

