-- ==== Sys2Proof/Laws/Step.lean ====
section
/-! SUPPORT. What the bus and a step can do, said once: the address map, the lanes, the cases of a host access and of a
step. -/

namespace Sys2Proof.Machine

/-- Four lanes carry their word back (20_memory.md R84). -/
@[simp] theorem wordOfLanes_lanesOfWord (w : Word) : wordOfLanes (lanesOfWord w) = w := by
  apply BitVec.eq_of_toNat_eq
  simp only [wordOfLanes, lanesOfWord, lanesValue, lane, BitVec.toNat_ofNat, BitVec.extractLsb'_toNat,
    Nat.shiftRight_eq_div_pow]
  have := w.isLt
  omega

@[simp] theorem lanesOfWord_length (w : Word) : (lanesOfWord w).length = 4 := rfl

/-- The register map, read backwards (20_memory.md R81). -/
theorem regAt_regOffset (r : Reg) : regAt (regOffset r) = some r := by cases r <;> rfl

theorem regAt_eq_some {off : Nat} {r : Reg} : regAt off = some r ↔ regOffset r = off := by
  constructor
  · intro h
    simpa using List.find?_some h
  · rintro rfl
    exact regAt_regOffset r

/-- A bus address at offset `off` of the window (20_memory.md R80). -/
theorem windowOffset_add (b : Build) {off : Nat} (h : off < windowBytes) : windowOffset b (b.base + off) = some off := by
  rw [windowOffset, if_pos ⟨by omega, by omega⟩, Nat.add_sub_cancel_left]

/-- A register is reached by an aligned 4-byte access at its offset (20_memory.md R81, R86). -/
theorem target_reg (b : Build) (r : Reg) : target b (regOffset r) 4 = some (.reg r) := by
  have h : regOffset r < ibufOffset := by cases r <;> decide
  rw [target, if_pos h, if_pos rfl, regAt_regOffset]
  rfl

/-- What a read can do: only the response changes (20_memory.md R89). -/
theorem State.busRead_cases (s : State) (off width : Nat) :
    (target s.build off width = none ∧ s.busRead off width = s.respond .busError) ∨
      ∃ t, target s.build off width = some t ∧ s.busRead off width = s.respond (.data (s.readTarget width t)) := by
  cases h : target s.build off width with
  | none => exact .inl ⟨rfl, by simp [State.busRead, h]⟩
  | some t => exact .inr ⟨t, rfl, by simp [State.busRead, h]⟩

/-- What a write can do: a bus error that changes no state, or the write where it lands (20_memory.md R83, R86). -/
theorem State.busWrite_cases (s : State) (off : Nat) (lanes : List Byte) :
    (target s.build off lanes.length = none ∧ s.busWrite off lanes = s.respond .busError) ∨
      ∃ t, target s.build off lanes.length = some t ∧ s.busWrite off lanes = (s.writeTarget lanes t).respond .ack := by
  cases h : target s.build off lanes.length with
  | none => exact .inl ⟨rfl, by simp [State.busWrite, h]⟩
  | some t => exact .inr ⟨t, rfl, by simp [State.busWrite, h]⟩

/-- What a write that lands can do (20_memory.md R87, R88, 70_reset_and_hazards.md R262). -/
theorem State.writeTarget_cases (s : State) (lanes : List Byte) (t : Target) :
    s.writeTarget lanes t = s ∨
    (s.busy = true ∧ s.writeTarget lanes t = s.ignoreWrite ∧
      (t = .reg .cmd ∨ t = .reg .cfg ∨ t = .reg .inLen ∨ ∃ i, t = .ibuf i)) ∨
    (s.busy = false ∧ t = .reg .cmd ∧ s.writeTarget lanes t = s.accept (wordOfLanes lanes)) ∨
    (s.busy = false ∧ t = .reg .cfg ∧ s.writeTarget lanes t = s.writeCfg (wordOfLanes lanes)) ∨
    (s.busy = false ∧ t = .reg .inLen ∧ s.writeTarget lanes t = s.writeInLen (wordOfLanes lanes)) ∨
    (t = .reg .ctrl ∧ s.writeTarget lanes t = s.writeCtrl (wordOfLanes lanes)) ∨
    (t = .reg .status ∧ s.writeTarget lanes t = s.writeStatus (wordOfLanes lanes)) ∨
    (s.busy = false ∧ ∃ i, t = .ibuf i ∧ s.writeTarget lanes t = s.writeIbuf i lanes) := by
  rcases t with r | i | i
  · cases r <;> cases h : s.busy <;> simp [State.writeTarget, State.writeReg, h]
  · cases h : s.busy <;> simp [State.writeTarget, h]
  · exact .inl rfl

/-- What a host access can do (20_memory.md R83). -/
theorem hostAccess_cases (a : Access) (s : State) :
    (windowOffset s.build a.addr = none ∧ hostAccess a s = .fault .platformAddress) ∨
    ∃ off, windowOffset s.build a.addr = some off ∧
      ((∃ addr width, a = .read addr width ∧ hostAccess a s = .next (s.busRead off width)) ∨
        ∃ addr lanes, a = .write addr lanes ∧ hostAccess a s = .next (s.busWrite off lanes)) := by
  cases h : windowOffset s.build a.addr with
  | none => exact .inl ⟨rfl, by simp [hostAccess, h]⟩
  | some off =>
    refine .inr ⟨off, rfl, ?_⟩
    cases a with
    | read addr width => exact .inl ⟨addr, width, rfl, by simp [hostAccess, h]⟩
    | write addr lanes => exact .inr ⟨addr, lanes, rfl, by simp [hostAccess, h]⟩

/-- A step by the head of the schedule (20_memory.md R91). -/
theorem step_nil {s : State} (h : s.schedule = []) : step s = coreTurn s := by simp [step, h]

theorem step_core {s : State} {rest : List Event} (h : s.schedule = .core :: rest) :
    step s = coreTurn { s with schedule := rest } := by simp [step, h]

theorem step_host {s : State} {a : Access} {rest : List Event} (h : s.schedule = .host a :: rest) :
    step s = hostAccess a { s with schedule := rest } := by simp [step, h]

theorem step_powerOn {s : State} {rest : List Event} (h : s.schedule = .powerOn :: rest) :
    step s = .next (State.powerOnReset { s with schedule := rest }) := by simp [step, h]

/-- What the core's turn can do: nothing, the commit of the decoded command, or the commit of an illegal word. -/
theorem coreTurn_cases (s : State) :
    (s.busy = false ∧ coreTurn s = .next s) ∨
    (∃ i, s.busy = true ∧ decode s.cmd = .ok i ∧ coreTurn s = exec i s) ∨
    ∃ e, s.busy = true ∧ decode s.cmd = .error e ∧ coreTurn s = commitIllegal s := by
  cases h : s.busy with
  | false => exact .inl ⟨rfl, by simp [coreTurn, h]⟩
  | true =>
    cases hd : decode s.cmd with
    | ok i => exact .inr (.inl ⟨i, rfl, rfl, by simp [coreTurn, commitStep, h, hd]⟩)
    | error e => exact .inr (.inr ⟨e, rfl, rfl, by simp [coreTurn, commitStep, h, hd]⟩)

/-- An offset of the window is the distance of its address from BASE (20_memory.md R80). -/
theorem windowOffset_eq_some {b : Build} {addr off : Nat} (h : windowOffset b addr = some off) :
    addr = b.base + off ∧ off < windowBytes := by
  unfold windowOffset at h
  split at h
  · injection h with h; omega
  · cases h

/-- An access that lands in a register is a 4-byte access at the register's offset (20_memory.md R81, R86). -/
theorem target_eq_reg {b : Build} {off width : Nat} {r : Reg} (h : target b off width = some (.reg r)) :
    off = regOffset r ∧ width = 4 := by
  unfold target at h
  split at h
  · split at h
    · cases hr : regAt off with
      | none => simp [hr] at h
      | some r' => simp only [hr, Option.map_some, Option.some.injEq, Target.reg.injEq] at h
                   subst h; exact ⟨(regAt_eq_some.1 hr).symm, by assumption⟩
    · simp at h
  · split at h <;> split at h <;> simp at h

/-- An access that lands in IBUF lies inside it (20_memory.md R82, R86). -/
theorem target_eq_ibuf {b : Build} {off width i : Nat} (h : target b off width = some (.ibuf i)) :
    off = ibufOffset + i ∧ i + width ≤ b.ibufBytes := by
  unfold target at h
  split at h
  · split at h
    · cases hr : regAt off <;> simp [hr] at h
    · simp at h
  · split at h <;> split at h <;> simp at h
    rename_i h1 _ h2
    subst h
    simp only [bufferAllows, Bool.and_eq_true, decide_eq_true_eq] at h2
    omega

/-- The buffer rule of the bus and the term in which claims speak of it are one (20_memory.md R82, R86). -/
theorem bufferAllows_iff (size i width : Nat) : bufferAllows size i width = true ↔ BufferAccess size i width := by
  simp [bufferAllows, BufferAccess, or_assoc, and_assoc]

/-- Lane k of a read of IBUF is the byte at index i + k (20_memory.md R84). -/
theorem State.readTarget_ibuf_getElem? (s : State) (i : Nat) {k width : Nat} (h : k < width) :
    (s.readTarget width (.ibuf i))[k]? = some (s.ibufAt (i + k)) := by
  simp [State.readTarget, h]

/-- Lane k of a read of OBUF is the byte at index i + k (20_memory.md R84). -/
theorem State.readTarget_obuf_getElem? (s : State) (i : Nat) {k width : Nat} (h : k < width) :
    (s.readTarget width (.obuf i))[k]? = some (s.obufAt (i + k)) := by
  simp [State.readTarget, h]

/-- What a step that answers `next t` did: the idle core kept everything, a command committed, a power-on reset, a host
access that changed the response alone, or a host write that landed (20_memory.md R91). -/
inductive StepCases (s t : State) : Prop where
  | idle (rest : List Event) (turn : s.CoreTurnNext rest) (busy : s.busy = false)
      (eq : t = { s with schedule := rest })
  | commit (rest : List Event) (turn : s.CoreTurnNext rest) (busy : s.busy = true) (o : CmdOutcome)
      (outcome : (∃ i, decode s.cmd = .ok i ∧ o = outcomeOf { s with schedule := rest } i) ∨
        ((∃ e, decode s.cmd = .error e) ∧ o = .error (.illegalCommand, 0)))
      (eq : t = ({ s with schedule := rest } : State).commit o)
  | powerOn (rest : List Event) (next : s.schedule = .powerOn :: rest)
      (eq : t = State.powerOnReset { s with schedule := rest })
  | respond (a : Access) (rest : List Event) (next : s.schedule = .host a :: rest) (r : Response)
      (eq : t = ({ s with schedule := rest } : State).respond r)
  | write (off : Nat) (lanes : List Byte) (rest : List Event)
      (next : s.schedule = .host (.write (s.build.base + off) lanes) :: rest) (tg : Target)
      (lands : target s.build off lanes.length = some tg)
      (eq : t = (({ s with schedule := rest } : State).writeTarget lanes tg).respond .ack)

/-- The inversion of a step. -/
theorem step_cases {s t : State} (h : step s = .next t) : StepCases s t := by
  have turn : ∀ rest, s.CoreTurnNext rest → coreTurn { s with schedule := rest } = .next t → StepCases s t := by
    intro rest hc h
    rcases coreTurn_cases { s with schedule := rest } with ⟨hb, e⟩ | ⟨i, hb, hd, e⟩ | ⟨x, hb, hd, e⟩
    · rw [e] at h; injection h with h; exact .idle rest hc hb h.symm
    · rw [e, exec_eq_commit] at h; injection h with h
      exact .commit rest hc hb _ (.inl ⟨i, hd, rfl⟩) h.symm
    · rw [e] at h; injection h with h
      exact .commit rest hc hb _ (.inr ⟨⟨x, hd⟩, rfl⟩) h.symm
  cases hs : s.schedule with
  | nil =>
    rw [step_nil hs] at h
    exact turn [] (.inl ⟨hs, rfl⟩) (by rw [← h, ← hs])
  | cons e rest =>
    cases e with
    | core => rw [step_core hs] at h; exact turn rest (.inr hs) h
    | powerOn => rw [step_powerOn hs] at h; injection h with h; exact .powerOn rest hs h.symm
    | host a =>
      rw [step_host hs] at h
      rcases hostAccess_cases a { s with schedule := rest } with
        ⟨_, e⟩ | ⟨off, ho, ⟨addr, w, rfl, e⟩ | ⟨addr, lanes, rfl, e⟩⟩ <;> rw [e] at h
      · cases h
      · injection h with h; subst h
        rcases State.busRead_cases { s with schedule := rest } off w with ⟨_, e⟩ | ⟨_, _, e⟩ <;> rw [e] <;>
          exact .respond _ rest hs _ rfl
      · injection h with h; subst h
        have ha := (windowOffset_eq_some ho).1
        simp only [Access.addr] at ha
        subst ha
        rcases State.busWrite_cases { s with schedule := rest } off lanes with ⟨_, e⟩ | ⟨tg, ht, e⟩ <;> rw [e]
        · exact .respond _ rest hs _ rfl
        · exact .write off lanes rest hs tg ht rfl

end Sys2Proof.Machine
end

