-- ==== Sys2Proof/Laws/Tables.lean ====
section
/-! SUPPORT. What the table search finds: the least digit count (40_tables.md R141). -/

namespace Sys2Proof.Machine

/-- The search answers the first d' >= d that reaches the target, when one lies within the fuel. -/
theorem leastDigits_spec (target fuel d : Nat) (h : target ≤ 62 ^ (d + fuel)) :
    target ≤ 62 ^ leastDigits target fuel d ∧ ∀ e, d ≤ e → target ≤ 62 ^ e → leastDigits target fuel d ≤ e := by
  induction fuel generalizing d with
  | zero => exact ⟨h, fun e he _ => he⟩
  | succ fuel ih =>
    rw [leastDigits]
    split
    · exact ⟨by assumption, fun e he _ => he⟩
    · obtain ⟨h1, h2⟩ := ih (d + 1) (by rwa [show d + 1 + fuel = d + (fuel + 1) by omega])
      refine ⟨h1, fun e he ht => h2 e ?_ ht⟩
      rcases Nat.lt_or_eq_of_le he with hlt | rfl
      · exact hlt
      · exact absurd ht (by assumption)

/-- DIGITS(n) is the least digit count whose groups hold n bytes (40_tables.md R141). -/
theorem digits_spec (n : Nat) : 2 ^ (8 * n) ≤ 62 ^ digits n ∧ ∀ d, 2 ^ (8 * n) ≤ 62 ^ d → digits n ≤ d := by
  obtain ⟨h1, h2⟩ := leastDigits_spec (2 ^ (8 * n)) (2 * n) 0 (by
    rw [Nat.zero_add, pow_mul, pow_mul]
    exact Nat.pow_le_pow_left (by norm_num) n)
  exact ⟨h1, fun d hd => h2 d (Nat.zero_le _) hd⟩

@[simp] theorem digits_zero : digits 0 = 0 := rfl

end Sys2Proof.Machine
end

