-- ==== Sys2Proof/Tests/Slice0.lean ====
section
/-! SUPPORT. The model's own tests: ill-formed terms that the checks refuse, words and vectors of the spec, and for every
statement with hypotheses a concrete state and operands that meet them. The vectors' names are those of
95_test_vectors.md. -/

namespace Sys2Proof.Tests

open Sys2Proof.Machine

/-! ### Helpers -/

/-- The answer is a next state with the property `f`. -/
def nextHas (o : Host.Outcome State Fault Refusal) (f : State → Bool) : Bool :=
  match o with
  | .next t => f t
  | _ => false

/-- The reset state with these events scheduled. -/
def scheduled (events : List Event) : State := { State.reset with schedule := events }

/-- The reset state with one 4-byte write scheduled. -/
def writing (off : Nat) (w : Word) : State := scheduled [w32Event Build.reference off w]

/-- The reset state with one read scheduled. -/
def reading (off width : Nat) : State := scheduled [.host (.read off width)]

/-- The reset state with a text or bytes in IBUF, IN_LEN set, and an alphabet selected. -/
def loaded (sel : AlphaSel) (bytes : List Byte) : State :=
  { State.reset with alphaSel := sel, ibuf := Memory.writeAll [] 0 bytes, inLen := BitVec.ofNat 32 bytes.length }

/-- A command is in flight. -/
def inFlight (s : State) (i : Instr) : State := s.accept (encode i)

/-- OBUF holds these bytes from index 0 on, and OUT_LEN is their number. -/
def outputs (s : State) (bytes : List Byte) : Bool :=
  s.outLen == BitVec.ofNat 32 bytes.length && (List.range bytes.length).map s.obufAt == bytes

/-! ### WellFormed: each check refuses an ill-formed term -/

theorem test_s2d_of_a_nine_bit_code_is_ill_formed : (Instr.s2d 256#16).wellFormed = false := by decide

theorem test_reference_build_is_well_formed : Build.reference.WellFormed := by decide

theorem test_chunk_size_zero_is_ill_formed : ¬ ({ Build.reference with n := 0 } : Build).WellFormed := by decide

theorem test_chunk_size_256_is_ill_formed : ¬ ({ Build.reference with n := 256 } : Build).WellFormed :=
  fun h => absurd h.1.2 (by decide)

theorem test_empty_input_buffer_is_ill_formed : ¬ ({ Build.reference with ibufBytes := 0 } : Build).WellFormed := by
  decide

theorem test_input_buffer_above_64k_is_ill_formed :
    ¬ ({ Build.reference with ibufBytes := 65537 } : Build).WellFormed := fun h => absurd h.2.1.2 (by decide)

theorem test_empty_output_buffer_is_ill_formed : ¬ ({ Build.reference with obufBytes := 0 } : Build).WellFormed :=
  fun h => absurd h.2.2.1.1 (by decide)

theorem test_output_buffer_above_64k_is_ill_formed :
    ¬ ({ Build.reference with obufBytes := 65537 } : Build).WellFormed := fun h => absurd h.2.2.1.2 (by decide)

/-- 00_scope.md R10: OBUF_BYTES >= ENC_LEN(4096) = 5504. -/
theorem test_output_buffer_below_enc_len_is_ill_formed :
    ¬ ({ Build.reference with obufBytes := 5503 } : Build).WellFormed := by decide

/-! ### Decode: the words of the spec, one per command (30_encoding.md R113, R120, 95_test_vectors.md part 2) -/

theorem test_decode_nop : decode 0b00000000000000000000000000000000#32 = .ok .nop := by decide
theorem test_decode_enc : decode 0b00000000000000000000000000000001#32 = .ok .enc := by decide
theorem test_decode_dec : decode 0b00000000000000000000000000000010#32 = .ok .dec := by decide
theorem test_decode_lutd_32 : decode 0b00000000001000000000000000000011#32 = .ok (.lutd 32#16) := by decide
theorem test_decode_lutb_43 : decode 0b00000000001010110000000000000100#32 = .ok (.lutb 43#16) := by decide
theorem test_decode_s2d_z : decode 0b00000000011110100000000000000101#32 = .ok (.s2d 0x7A#16) := by decide
theorem test_decode_d2s_61 : decode 0b00000000001111010000000000000110#32 = .ok (.d2s 61#16) := by decide
theorem test_decode_lutb_65535 : decode 0xFFFF0004#32 = .ok (.lutb 65535#16) := by decide
theorem test_table_word_of_lutd : decodeTableWord 32 0x00200003 = some (.lutd 32#16) := by decide

/-- V-C2 to V-C8 and V-A17. -/
theorem test_decode_refuses_the_illegal_words :
    decode 0x00000007#32 = .error .reservedOpcode ∧ decode 0x0000000F#32 = .error .reservedOpcode ∧
    decode 0x00000011#32 = .error .reservedBits ∧ decode 0x0000FFF3#32 = .error .reservedBits ∧
    decode 0x00010000#32 = .error .immediateNotZero ∧ decode 0x00010001#32 = .error .immediateNotZero ∧
    decode 0x80000002#32 = .error .immediateNotZero ∧ decode 0x01410005#32 = .error .symbolHighByte := by decide

/-- 30_encoding.md R120, R121. -/
theorem test_assembler_lines :
    assemble .lutd (.imm 32) = some (.lutd 32#16) ∧ assemble .s2d (.char 'z') = some (.s2d 0x7A#16) ∧
    assemble .s2d (.char '-') = none ∧ assemble .s2d (.imm 256) = none ∧ assemble .lutb (.imm 65536) = none ∧
    assemble .enc (.imm 0) = none ∧ assemble .d2s .none = none := by decide

/-! ### One step per command -/

/-- V-C1: the state after the FRAMING error V-D2. -/
theorem test_nop_clears_the_error_record :
    nextHas (step (({ State.reset with done := true, err := true, errCode := 2#4 } : State).withFetchWord 32 0))
      (fun t => t.statusWord == 2#32 && t.errInfo == 0#32 && t.outLen == 0#32 && t.result == 0#32) = true := by decide

/-- V-E26. -/
theorem test_enc_hello_base64like :
    nextHas (exec .enc (inFlight (loaded .base64like [0x48#8, 0x65#8, 0x6C#8, 0x6C#8, 0x6F#8]) .enc))
      (fun t => t.statusWord == 2#32 && outputs t (codesOf ['F', 'd', 'Z', 'D', 'Z', 'D', '5'])) = true := by decide

/-- V-E39. -/
theorem test_enc_legacy_length :
    nextHas (exec .enc (inFlight { loaded .lexicographic [1#8, 2#8, 3#8] with legacy4 := true, outLen := 9#32 } .enc))
      (fun t => t.statusWord == 0x406#32 && t.outLen == 0#32 && t.obuf == []) = true := by decide

/-- V-D40. -/
theorem test_dec_under_another_alphabet :
    nextHas (exec .dec (inFlight (loaded .natural (codesOf ['5', 'T', 'P', '3', 'P', '3', 'v'])) .dec))
      (fun t => t.statusWord == 2#32 && outputs t [0x4E#8, 0x08#8, 0x14#8, 0x29#8, 0x1D#8]) = true := by decide

/-- V-D29. -/
theorem test_dec_overflow_before_framing :
    nextHas (exec .dec (inFlight (loaded .lexicographic (List.replicate 43 0x7A#8 ++ [0x30#8])) .dec))
      (fun t => t.statusWord == 0x306#32 && t.errInfo == 0#32) = true := by decide +kernel

/-- V-L7, V-L9. -/
theorem test_lutd :
    nextHas (exec (.lutd 32#16) (inFlight State.reset (.lutd 32#16)))
      (fun t => t.statusWord == 2#32 && t.result == 43#32) = true ∧
    nextHas (exec (.lutd 33#16) (inFlight State.reset (.lutd 33#16)))
      (fun t => t.statusWord == 0x706#32 && t.result == 0#32) = true := by decide

/-- V-L15, V-L20. -/
theorem test_lutb :
    nextHas (exec (.lutb 42#16) (inFlight State.reset (.lutb 42#16)))
      (fun t => t.statusWord == 2#32 && t.result == 31#32) = true ∧
    nextHas (exec (.lutb 40#16) (inFlight State.reset (.lutb 40#16)))
      (fun t => t.statusWord == 0x206#32 && t.result == 0#32) = true := by decide

/-- V-A4 under sel 2, V-A16. -/
theorem test_s2d :
    nextHas (exec (.s2d 0x5A#16) (inFlight (loaded .natural []) (.s2d 0x5A#16)))
      (fun t => t.statusWord == 2#32 && t.result == 61#32) = true ∧
    nextHas (exec (.s2d 0x5B#16) (inFlight State.reset (.s2d 0x5B#16)))
      (fun t => t.statusWord == 0x106#32 && t.result == 0#32) = true := by decide

/-- V-A11 under sel 1, V-A18. -/
theorem test_d2s :
    nextHas (exec (.d2s 52#16) (inFlight (loaded .base64like []) (.d2s 52#16)))
      (fun t => t.statusWord == 2#32 && t.result == 0x30#32) = true ∧
    nextHas (exec (.d2s 62#16) (inFlight State.reset (.d2s 62#16)))
      (fun t => t.statusWord == 0x706#32 && t.result == 0#32) = true := by decide

/-- V-A17: an illegal word. -/
theorem test_illegal_word :
    nextHas (step (State.reset.withFetchWord 32 0x01410005)) (fun t => t.statusWord == 0x506#32) = true := by decide

/-! ### The bus (95_test_vectors.md 2.6) -/

/-- V-B11. -/
theorem test_write_cfg_all_ones :
    nextHas (step (writing 0x010 0xFFFFFFFF#32)) (fun t => t.cfgWord == 4#32) = true := by decide

/-- V-B24. -/
theorem test_write_status_all_ones :
    nextHas (step { writing 0x018 0xFFFFFFFF#32 with done := true, err := true, wign := true, errCode := 2#4 })
      (fun t => t.statusWord == 0x204#32) = true := by decide

/-- V-B2. -/
theorem test_read_param0 :
    nextHas (step (reading 0x004 4)) (fun t => t.response == .data [0x20#8, 0x00#8, 0x2B#8, 0x00#8]) = true := by decide

/-- V-B6, V-B8, V-B10, V-B18, V-B20, V-B23. -/
theorem test_bus_errors :
    (([.read 0x030 4, .read 0x018 2, .read 0x012 4, .write 0x10001 [0x30#8, 0x30#8],
        .write 0x11000 [0#8, 0#8, 0#8, 0#8], .read 0x22000 4] : List Access).all
      (fun a => nextHas (step (scheduled [.host a])) (fun t => t.response == .busError && t.ibuf == []))) = true := by
  decide

/-- V-B17, V-B19. -/
theorem test_write_ibuf :
    nextHas (step (scheduled [.host (.write 0x10002 [0x37#8, 0x30#8])])) (fun t => t.ibuf == [(2, 0x37#8), (3, 0x30#8)])
      = true ∧
    nextHas (step (scheduled [.host (.write 0x10FFC [1#8, 2#8, 3#8, 4#8])]))
      (fun t => t.response == .ack && t.ibufAt 4095 == 4#8) = true := by decide

/-- V-B27. -/
theorem test_access_above_the_window : step (reading 0x30000 4) = .fault .platformAddress := rfl

/-! ### Witnesses: concrete states and operands that meet the hypotheses of the statements -/

theorem witness_DecodeOfEncodeIsTheCommand :
    (Instr.s2d 255#16).wellFormed = true ∧ (Instr.lutd 65535#16).wellFormed = true := by decide

theorem witness_DecodedWordIsTheEncodeOfItsCommand : decode 0x00FF0005#32 = .ok (.s2d 255#16) := by decide

theorem witness_IllegalWords_bits :
    IllegalBits 0x00000007#32 ∧ IllegalBits 0x00000010#32 ∧ IllegalBits 0x00010002#32 ∧ IllegalBits 0x01000005#32 := by
  unfold IllegalBits; decide

theorem witness_IllegalWords_accept :
    (writing 0x01C 7#32).schedule = w32Event (writing 0x01C 7#32).build 0x01C 7#32 :: [] ∧
      (writing 0x01C 7#32).busy = false := ⟨rfl, rfl⟩

theorem witness_IllegalWords_busy :
    ({ writing 0x01C 7#32 with busy := true } : State).schedule = w32Event Build.reference 0x01C 7#32 :: [] ∧
      ({ writing 0x01C 7#32 with busy := true } : State).busy = true := ⟨rfl, rfl⟩

theorem witness_IllegalWords_commit :
    (State.reset.accept 7#32).busy = true ∧ (State.reset.accept 7#32).cmd = 7#32 ∧
      (State.reset.accept 7#32).CoreTurnNext [] ∧ (State.reset.accept 7#32).wign = false :=
  ⟨rfl, rfl, .inl ⟨rfl, rfl⟩, rfl⟩

theorem witness_StepCommits_busy :
    (inFlight State.reset .enc).busy = true ∧ (inFlight State.reset .enc).CoreTurnNext [] ∧
      decode (inFlight State.reset .enc).cmd = .ok .enc := ⟨rfl, .inl ⟨rfl, rfl⟩, by decide⟩

theorem witness_StepCommits_idle : (scheduled [.core]).busy = false ∧ (scheduled [.core]).CoreTurnNext [] :=
  ⟨rfl, .inr rfl⟩

theorem witness_HostWriteOfCmd :
    (writing 0x01C 0xFFFFFFFF#32).schedule = w32Event Build.reference 0x01C 0xFFFFFFFF#32 :: [] ∧
      (writing 0x01C 0xFFFFFFFF#32).busy = false := ⟨rfl, rfl⟩

theorem witness_ErrorCommit :
    ∃ t, exec (.lutd 0#16) State.reset = .next t ∧ State.reset.err = false ∧ t.err = true ∧ Instr.lutd 0#16 ≠ .dec :=
  ⟨_, rfl, rfl, by decide, by decide⟩

theorem witness_EveryCommandCommits :
    Instr.lutd 32#16 ≠ .enc ∧ Instr.lutd 32#16 ≠ .dec ∧
      nextHas (exec (.lutd 32#16) State.reset) (fun t => t.err == false) = true ∧
      nextHas (exec .enc (loaded .natural [1#8])) (fun t => t.err == false) = true := by decide

theorem witness_Nop : 1#16 ≠ 0#16 ∧ State.reset.wign = false := by decide

theorem witness_Lutd :
    (1 ≤ (1#16).toNat ∧ (1#16).toNat ≤ State.reset.build.n) ∧ (32#16).toNat = State.reset.build.n ∧ (4#16).toNat = 4 ∧
      (0#16).toNat = 0 ∧ State.reset.build.n < (33#16).toNat := by decide

theorem witness_Lutb_found :
    (1 ≤ 1 ∧ 1 ≤ State.reset.build.n ∧ digits 1 = (2#16).toNat) ∧ 1 ≤ State.reset.build.n ∧
      (43#16).toNat = dMax State.reset.build.n ∧ 32 ≤ State.reset.build.n := by decide

theorem witness_Lutb_none : ∀ b, 1 ≤ b → b ≤ State.reset.build.n → digits b ≠ (40#16).toNat := by
  intro b _ h
  have h : b ≤ 32 := h
  interval_cases b <;> decide

theorem witness_Lutb_small_and_large :
    (1#16).toNat ≤ 1 ∧ (4#16).toNat = 4 ∧ dMax State.reset.build.n < (44#16).toNat := by decide

theorem witness_S2d :
    ((alphabetChars State.reset.alphaSel)[61]? = some 'z' ∧ 'z'.toNat = (0x7A#16).toNat) ∧ 256 ≤ (256#16).toNat := by
  decide

/-- The word 0x01000005, the smallest operand that does not decode, in flight. -/
theorem witness_S2d_undecodable :
    256 ≤ (256#16).toNat ∧ (inFlight State.reset (.s2d 256#16)).busy = true ∧
      (inFlight State.reset (.s2d 256#16)).cmd = encode (.s2d 256#16) ∧ encode (.s2d 256#16) = 0x01000005#32 ∧
      (inFlight State.reset (.s2d 256#16)).CoreTurnNext [] := ⟨by decide, rfl, rfl, by decide, .inl ⟨rfl, rfl⟩⟩

theorem witness_S2dMeaningOfAnUndecodableOperand : 256 ≤ (256#16).toNat ∧ 256 ≤ (65535#16).toNat := by decide

theorem witness_S2d_foreign_code :
    (255#16).toNat < 256 ∧ ∀ ch ∈ alphabetChars State.reset.alphaSel, ch.toNat ≠ (255#16).toNat := by
  have h : (alphabetChars State.reset.alphaSel).all (fun ch => ch.toNat != 255) = true := by decide
  exact ⟨by decide, fun ch hc => by simpa using List.all_eq_true.1 h ch hc⟩

theorem witness_D2s : (61#16).toNat ≤ 61 ∧ 62 ≤ (62#16).toNat := by decide

theorem witness_Enc :
    ({ State.reset with inLen := 4096#32, legacy4 := true } : State).inLen.toNat ≤ Build.reference.ibufBytes ∧
      ({ State.reset with inLen := 4096#32, legacy4 := true } : State).inLen.toNat % 4 = 0 := by decide

theorem witness_LengthChecks_long :
    Build.reference.ibufBytes < ({ State.reset with inLen := 4097#32 } : State).inLen.toNat := by decide

theorem witness_LengthChecks_legacy :
    ({ State.reset with inLen := 5#32, legacy4 := true } : State).inLen.toNat ≤ Build.reference.ibufBytes ∧
      ({ State.reset with inLen := 5#32, legacy4 := true } : State).inLen.toNat % 4 ≠ 0 := by decide

theorem witness_LengthChecks_multiple :
    ∃ t, exec .enc ({ loaded .natural [1#8, 2#8, 3#8, 4#8] with legacy4 := false } : State) = .next t ∧
      ({ loaded .natural [1#8, 2#8, 3#8, 4#8] with legacy4 := true } : State).inLen.toNat % 4 = 0 :=
  ⟨_, rfl, by decide⟩

theorem witness_Chunks :
    (pieces 2 [1#8, 2#8, 3#8])[0]? = some [1#8, 2#8] ∧ 0 + 1 < (pieces 2 [1#8, 2#8, 3#8]).length ∧
      (pieces 2 [1#8, 2#8, 3#8])[1]? = some [3#8] ∧ 1 + 1 = (pieces 2 [1#8, 2#8, 3#8]).length := by decide

theorem witness_ValueFunctions : 255 < 2 ^ (8 * 1) ∧ 3843 < 62 ^ 2 := by decide

theorem witness_EncodedGroup :
    4 < digits [0#8, 0#8, 0#8, 1#8].length ∧
      beValue [0#8, 0#8, 0#8, 1#8] < 62 ^ (digits [0#8, 0#8, 0#8, 1#8].length - 1 - 4) := by decide

theorem witness_EncodedLength :
    ∃ t, (loaded .natural [255#8]).build.WellFormed ∧ (loaded .natural [255#8]).err = false ∧
      exec .enc (loaded .natural [255#8]) = .next t ∧ t.err = false := ⟨_, by decide, rfl, rfl, by decide⟩

theorem witness_EncLenIsStrictlyIncreasing : 1 ≤ 1 ∧ 31 < 32 ∧ 30 + 1 < 32 := by decide

theorem witness_ChunksAreEncodedIndependently : 2 ∣ [1#8, 2#8].length := by decide

theorem witness_Lexicographic : 60 < 61 ∧ [0x01#8, 0x00#8].length = [0x01#8, 0xFF#8].length := by decide

/-- The string "47" under the lexicographic alphabet (V-D4). -/
theorem witness_DecCommits :
    (loaded .lexicographic (codesOf ['4', '7'])).inLen.toNat ≤ Build.reference.ibufBytes ∧
    (loaded .lexicographic (codesOf ['4', '7'])).inLen.toNat = 2 ∧
    (∀ i, i < 2 → (romSym .lexicographic ((loaded .lexicographic (codesOf ['4', '7'])).ibufAt i)).isSome = true) ∧
    pieces (dMax Build.reference.n) (loaded .lexicographic (codesOf ['4', '7'])).input = [codesOf ['4', '7']] ∧
    bytesOf 32 (codesOf ['4', '7']).length = some 1 ∧
    groupValue .lexicographic (codesOf ['4', '7']) < 2 ^ (8 * 1) := by decide

/-- The string "0-" (V-D30). -/
theorem witness_DecReportsTheFirstForeignCode :
    (loaded .lexicographic (codesOf ['0', '-'])).inLen.toNat ≤ Build.reference.ibufBytes ∧
    1 < (loaded .lexicographic (codesOf ['0', '-'])).inLen.toNat ∧
    romSym .lexicographic ((loaded .lexicographic (codesOf ['0', '-'])).ibufAt 1) = none ∧
    (∀ j, j < 1 → (romSym .lexicographic ((loaded .lexicographic (codesOf ['0', '-'])).ibufAt j)).isSome = true) := by
  decide

/-- The string "0" (V-D2). -/
theorem witness_DecFraming_reported :
    ∃ t, (loaded .lexicographic (codesOf ['0'])).err = false ∧ exec .dec (loaded .lexicographic (codesOf ['0'])) = .next t ∧
      t.err = true ∧ t.errCode = 2#4 := ⟨_, rfl, rfl, by decide, by decide⟩

/-- The string "0" again: every code is valid, no group is full, and no byte length has one digit. -/
theorem witness_DecFraming_raised :
    1 ≤ Build.reference.n ∧ (loaded .lexicographic (codesOf ['0'])).inLen.toNat = 1 ∧ 1 ≤ Build.reference.ibufBytes ∧
    (∀ i, i < 1 → (romSym .lexicographic ((loaded .lexicographic (codesOf ['0'])).ibufAt i)).isSome = true) ∧
    (∀ g ∈ pieces (dMax Build.reference.n) (loaded .lexicographic (codesOf ['0'])).input,
      g.length = dMax Build.reference.n → groupValue .lexicographic g < 2 ^ (8 * Build.reference.n)) ∧
    1 % dMax Build.reference.n ≠ 0 ∧ bytesOf Build.reference.n (1 % dMax Build.reference.n) = none := by decide

theorem witness_DecFraming_table : State.reset.build.n = 32 ∧ (1 < 43 ∧ 1 ≠ 0) ∧ 42 < 43 := by decide

/-- MAX43 ++ "48" (V-D28): the second group overflows, the first does not. -/
theorem witness_DecReportsTheFirstOverflowingGroup :
    (pieces 43 (encodeChunk .lexicographic (List.replicate 32 0xFF#8) ++ codesOf ['4', '8']))[1]? =
      some (codesOf ['4', '8']) ∧
    bytesOf 32 2 = some 1 ∧ 2 ^ (8 * 1) ≤ groupValue .lexicographic (codesOf ['4', '8']) ∧
    (pieces 43 (encodeChunk .lexicographic (List.replicate 32 0xFF#8) ++ codesOf ['4', '8']))[0]? =
      some (encodeChunk .lexicographic (List.replicate 32 0xFF#8)) ∧
    bytesOf 32 (encodeChunk .lexicographic (List.replicate 32 0xFF#8)).length = some 32 ∧
    groupValue .lexicographic (encodeChunk .lexicographic (List.replicate 32 0xFF#8)) < 2 ^ (8 * 32) := by decide +kernel

/-- The string "48" in a state (V-D5). -/
theorem witness_DecReportsTheFirstOverflowingGroup_state :
    (loaded .lexicographic (codesOf ['4', '8'])).inLen.toNat = 2 ∧ 2 ≤ Build.reference.ibufBytes ∧
    (∀ i, i < 2 → (romSym .lexicographic ((loaded .lexicographic (codesOf ['4', '8'])).ibufAt i)).isSome = true) ∧
    (pieces (dMax Build.reference.n) (loaded .lexicographic (codesOf ['4', '8'])).input)[0]? =
      some (codesOf ['4', '8']) ∧
    bytesOf Build.reference.n (codesOf ['4', '8']).length = some 1 ∧
    2 ^ (8 * 1) ≤ groupValue .lexicographic (codesOf ['4', '8']) := by decide

theorem witness_DecodedLength :
    ∃ t, (loaded .lexicographic (codesOf ['4', '7'])).build.WellFormed ∧
      (loaded .lexicographic (codesOf ['4', '7'])).err = false ∧
      exec .dec (loaded .lexicographic (codesOf ['4', '7'])) = .next t ∧ t.err = false ∧ 4096 ≤ Build.reference.ibufBytes :=
  ⟨_, by decide, rfl, rfl, by decide, by decide⟩

theorem witness_DecIgnoresLegacyMode : ∃ t, exec .dec (loaded .lexicographic (codesOf ['0', '4', '8'])) = .next t :=
  ⟨_, rfl⟩

theorem witness_AllMaximumGroups :
    bytesOf State.reset.build.n 2 = some 1 ∧ 2 ≤ Build.reference.ibufBytes ∧
      (loaded .lexicographic (codesOf ['z', 'z'])).input = List.replicate 2 (romAlpha .lexicographic 61) := by decide

theorem witness_OverflowBoundary :
    bytesOf 32 43 = some 32 ∧ (List.replicate 43 0x30#8).length = 43 ∧
      ∀ x ∈ List.replicate 43 0x30#8, (romSym .lexicographic x).isSome = true := by decide

theorem witness_EmptyInput : (inFlight State.reset .dec).inLen = 0#32 := rfl

/-- [FF] encodes to "47" (V-E5), and `u` holds that text. -/
theorem witness_DecOfEnc :
    ∃ t, (loaded .lexicographic [0xFF#8]).build.WellFormed ∧ (loaded .lexicographic [0xFF#8]).err = false ∧
      exec .enc (loaded .lexicographic [0xFF#8]) = .next t ∧ t.err = false ∧
      (loaded .lexicographic (codesOf ['4', '7'])).build = (loaded .lexicographic [0xFF#8]).build ∧
      (loaded .lexicographic (codesOf ['4', '7'])).inLen = t.outLen ∧ t.outLen.toNat ≤ Build.reference.ibufBytes ∧
      ∀ i, i < 2 → (loaded .lexicographic (codesOf ['4', '7'])).ibufAt i = t.obufAt i :=
  ⟨_, by decide, rfl, rfl, by decide, rfl, by decide, by decide, by decide⟩

/-- "47" decodes to [FF] (V-D4), and `u` holds that byte. -/
theorem witness_EncOfDec :
    ∃ t, (loaded .lexicographic (codesOf ['4', '7'])).build.WellFormed ∧
      (loaded .lexicographic (codesOf ['4', '7'])).err = false ∧
      exec .dec (loaded .lexicographic (codesOf ['4', '7'])) = .next t ∧ t.err = false ∧
      (loaded .lexicographic [0xFF#8]).build = (loaded .lexicographic (codesOf ['4', '7'])).build ∧
      (loaded .lexicographic [0xFF#8]).legacy4 = false ∧ (loaded .lexicographic [0xFF#8]).inLen = t.outLen ∧
      ∀ i, i < 1 → (loaded .lexicographic [0xFF#8]).ibufAt i = t.obufAt i :=
  ⟨_, by decide, rfl, rfl, by decide, rfl, rfl, by decide, by decide⟩

/-- The second clause: the same string in two states that differ elsewhere. -/
theorem witness_EncOfDec_two_strings :
    ∃ t t', exec .dec (loaded .lexicographic (codesOf ['4', '7'])) = .next t ∧
      exec .dec { loaded .lexicographic (codesOf ['4', '7']) with wign := true } = .next t' ∧
      t.err = false ∧ t'.err = false ∧ t'.outLen = t.outLen ∧ t'.obuf = t.obuf :=
  ⟨_, _, rfl, rfl, by decide, by decide, by decide, by decide⟩

theorem witness_Retry :
    SameInputs (loaded .natural [1#8]) { loaded .natural [1#8] with wign := true, result := 5#32 } ∧
      SameErrorRecord (loaded .natural [1#8]) { loaded .natural [1#8] with wign := true, result := 5#32 } :=
  ⟨⟨rfl, rfl, rfl, rfl, fun _ _ => rfl⟩, ⟨rfl, rfl, rfl⟩⟩

/-- Both outcomes of the retried command are met: an error and a result. -/
theorem witness_Retry_outcomes :
    nextHas (exec .dec (loaded .lexicographic (codesOf ['0']))) (fun t => t.err) = true ∧
      nextHas (exec (.lutd 4#16) (loaded .natural [1#8])) (fun t => !t.err) = true := by decide

theorem witness_BytesOf_none :
    bytesOf State.reset.build.n (4#16).toNat = none ∧ bytesOf 32 (codesOf ['1', '0', '0', '0']).length = none := by decide

theorem witness_Identification :
    (reading 0x000 4).schedule = .host (.read (State.reset.build.base + 0x000) 4) :: [] ∧
      (reading 0x004 4).schedule = .host (.read (State.reset.build.base + 0x004) 4) :: [] ∧
      (reading 0x008 4).schedule = .host (.read (State.reset.build.base + 0x008) 4) :: [] ∧
      (reading 0x00C 4).schedule = .host (.read (State.reset.build.base + 0x00C) 4) :: [] ∧
      (writing 0x00C 5#32).schedule = w32Event State.reset.build 0x00C 5#32 :: [] ∧ State.reset.build.n = 32 := by decide

theorem witness_RegisterReads :
    (0x010, State.reset.cfgWord) ∈ [(0x010, State.reset.cfgWord), (0x02C, State.reset.errInfo)] ∧
      (reading 0x010 4).schedule = .host (.read (State.reset.build.base + 0x010) 4) :: [] ∧
      (reading 0x02C 4).schedule = .host (.read (State.reset.build.base + 0x02C) 4) :: [] := by decide

theorem witness_Status :
    (writing 0x018 10#32).schedule = w32Event State.reset.build 0x018 10#32 :: [] ∧
      (reading 0x018 4).schedule = .host (.read (State.reset.build.base + 0x018) 4) :: [] := by decide

theorem witness_Cfg :
    (writing 0x010 7#32).busy = false ∧ (writing 0x010 7#32).schedule = w32Event State.reset.build 0x010 7#32 :: [] ∧
      (7#32).extractLsb' 0 2 = 3#2 ∧ (4#32).extractLsb' 0 2 = 0#2 ∧ (5#32).extractLsb' 0 2 = 1#2 ∧
      (6#32).extractLsb' 0 2 = 2#2 := by decide

theorem witness_Cfg_orderings :
    (loaded .lexicographic []).alphaSel = .lexicographic ∧ (loaded .base64like []).alphaSel = .base64like ∧
      (loaded .natural []).alphaSel = .natural := ⟨rfl, rfl, rfl⟩

/-- V-B14: all 32 bits, and a read behind the write. -/
theorem witness_InLenWrite :
    (writing 0x020 0xFFFFFFFF#32).busy = false ∧
      (writing 0x020 0xFFFFFFFF#32).schedule = w32Event State.reset.build 0x020 0xFFFFFFFF#32 :: [] ∧
      (scheduled [w32Event Build.reference 0x020 0xFFFFFFFF#32, .host (.read 0x020 4)]).busy = false ∧
      (scheduled [w32Event Build.reference 0x020 0xFFFFFFFF#32, .host (.read 0x020 4)]).schedule =
        w32Event State.reset.build 0x020 0xFFFFFFFF#32 :: .host (.read (State.reset.build.base + 0x020) 4) :: [] :=
  ⟨rfl, rfl, rfl, rfl⟩

theorem witness_Ctrl :
    (writing 0x014 0x80000001#32).schedule = w32Event State.reset.build 0x014 0x80000001#32 :: [] ∧
      (0x80000001#32).getLsbD 31 = true ∧ (0x7FFFFFFF#32).getLsbD 31 = false := by decide

/-- The first unmapped register offset, the last mapped one, and a word past the end of IBUF. -/
theorem witness_OnlyAllowedAccesses :
    State.reset.build.WellFormed ∧ AllowedAccess State.reset.build 0x02C 4 ∧ ¬ AllowedAccess State.reset.build 0x030 4 ∧
      (reading 0x030 4).schedule = .host (.read (State.reset.build.base + 0x030) 4) :: [] ∧ 0x030 < 0x30000 := by
  refine ⟨by decide, .inl (by decide), ?_, rfl, by decide⟩
  rintro (h | ⟨i, h, _⟩ | ⟨i, h, _⟩) <;> omega

theorem witness_BusLanes :
    4 * 1023 + 4 ≤ State.reset.build.ibufBytes ∧ 4 * 2047 + 4 ≤ State.reset.build.obufBytes ∧
      (reading 0x10FFC 4).schedule = .host (.read (State.reset.build.base + (0x10000 + 4 * 1023)) 4) :: [] ∧
      (reading 0x21FFC 4).schedule = .host (.read (State.reset.build.base + (0x20000 + 4 * 2047)) 4) :: [] := by decide

/-- The last byte and the last half-word of each buffer. -/
theorem witness_BusLanes_narrow :
    (BufferAccess State.reset.build.ibufBytes 4095 1 ∧ BufferAccess State.reset.build.ibufBytes 4094 2) ∧
      (BufferAccess State.reset.build.obufBytes 8191 1 ∧ BufferAccess State.reset.build.obufBytes 8190 2) ∧
      (reading 0x10FFF 1).schedule = .host (.read (State.reset.build.base + (0x10000 + 4095)) 1) :: [] ∧
      (reading 0x10FFE 2).schedule = .host (.read (State.reset.build.base + (0x10000 + 4094)) 2) :: [] ∧
      (reading 0x21FFF 1).schedule = .host (.read (State.reset.build.base + (0x20000 + 8191)) 1) :: [] ∧
      (reading 0x21FFE 2).schedule = .host (.read (State.reset.build.base + (0x20000 + 8190)) 2) :: [] ∧
      State.reset.build.WellFormed ∧ 0 < 1 ∧ 1 < 2 := by
  unfold BufferAccess; decide

theorem witness_IbufWrite :
    BufferAccess State.reset.build.ibufBytes 4092 [1#8, 2#8, 3#8, 4#8].length ∧
      (scheduled [.host (.write 0x10FFC [1#8, 2#8, 3#8, 4#8])]).schedule =
        .host (.write (State.reset.build.base + (0x10000 + 4092)) [1#8, 2#8, 3#8, 4#8]) :: [] ∧
      Memory.wf State.reset.build.ibufBytes State.reset.ibuf := by
  unfold BufferAccess; decide

theorem witness_ReadOnlyTargets :
    BufferAccess State.reset.build.obufBytes 8191 [0x55#8].length ∧
      (scheduled [.host (.write 0x21FFF [0x55#8])]).schedule =
        .host (.write (State.reset.build.base + (0x20000 + 8191)) [0x55#8]) :: [] ∧
      (writing 0x02C 5#32).schedule = w32Event State.reset.build 0x02C 5#32 :: [] := by
  unfold BufferAccess; decide

/-- A command is in flight; each clause has its own access. -/
theorem witness_BusyWindow :
    (inFlight (writing 0x020 5#32) .enc).busy = true ∧
      (inFlight (writing 0x020 5#32) .enc).schedule = w32Event State.reset.build 0x020 5#32 :: [] ∧
      (inFlight (writing 0x014 0x80000000#32) .enc).schedule = w32Event State.reset.build 0x014 0x80000000#32 :: [] ∧
      (inFlight (writing 0x018 8#32) .enc).schedule = w32Event State.reset.build 0x018 8#32 :: [] ∧
      (inFlight (reading 0x024 4) .enc).schedule = .host (.read (State.reset.build.base + 0x024) 4) :: [] ∧
      (inFlight (reading 0x028 4) .enc).schedule = .host (.read (State.reset.build.base + 0x028) 4) :: [] ∧
      (inFlight (reading 0x20000 1) .enc).schedule = .host (.read (State.reset.build.base + (0x20000 + 0)) 1) :: [] ∧
      nextHas (step (inFlight (writing 0x020 5#32) .enc)) (fun t => t.busy) = true := by decide

theorem witness_SoftReset :
    (0x80000000#32).getLsbD 31 = true ∧
      (inFlight (writing 0x014 0x80000000#32) .enc).schedule = w32Event State.reset.build 0x014 0x80000000#32 :: [] := by
  decide

theorem witness_PowerOn : (scheduled [.powerOn]).schedule = .powerOn :: [] := rfl

/-- IRQ rises by a commit with IE = 1 (V-I1), and by a write of IE while DONE = 1 (V-I4). -/
theorem witness_Irq_rises :
    (inFlight { State.reset with ie := true } .nop).irq = false ∧
      nextHas (step (inFlight { State.reset with ie := true } .nop)) (fun t => t.irq) = true ∧
      ({ writing 0x014 1#32 with done := true } : State).irq = false ∧
      nextHas (step { writing 0x014 1#32 with done := true }) (fun t => t.irq) = true := by decide

/-- IRQ falls by a STATUS write (V-I2), an accept, a CTRL write (V-I3, V-I6) and the power-on reset. -/
theorem witness_Irq_falls :
    (([writing 0x018 2#32, writing 0x01C 0#32, writing 0x014 0#32, writing 0x014 0x80000000#32, scheduled [.powerOn]]
        : List State).all
      (fun s => nextHas (step { s with ie := true, done := true }) (fun t => !t.irq))) = true := by decide

theorem witness_BusyAndDone :
    nextHas (step (writing 0x01C 0#32)) (fun t => t.busy) = true ∧
      nextHas (step (inFlight State.reset .nop)) (fun t => t.done) = true ∧
      nextHas (step { writing 0x018 2#32 with done := true }) (fun t => !t.done) = true ∧
      nextHas (step (inFlight (writing 0x014 0x80000000#32) .enc)) (fun t => !t.busy) = true := by decide

theorem witness_ResetNext :
    (scheduled [.powerOn]).ResetNext ∧ (writing 0x014 0x80000000#32).ResetNext :=
  ⟨.inl ⟨[], rfl⟩, .inr ⟨lanesOfWord 0x80000000#32, [], rfl, rfl, by decide⟩⟩

theorem witness_Wign :
    nextHas (step (inFlight (writing 0x010 1#32) .enc)) (fun t => t.wign) = true ∧
      nextHas (step (inFlight (scheduled [.host (.write 0x10FFF [1#8])]) .enc)) (fun t => t.wign) = true ∧
      nextHas (step { writing 0x018 8#32 with wign := true }) (fun t => !t.wign) = true ∧
      nextHas (step { writing 0x01C 0#32 with wign := true }) (fun t => t.wign && t.busy) = true := by decide

/-- A state of the invariant with a command in flight, and its step. -/
theorem witness_EveryStepKeepsTheMachineInvariant :
    (inFlight (loaded .natural [7#8]) .enc).Inv ∧ ∃ t, step (inFlight (loaded .natural [7#8]) .enc) = .next t :=
  ⟨⟨by decide, by decide, by decide, ⟨by decide, by decide, fun _ => rfl, fun _ => rfl, fun _ => rfl, by decide⟩,
    fun _ => rfl, fun _ => rfl, by decide⟩, _, rfl⟩

/-- A command in flight behind one poll of STATUS, at the last offset of the register region and of the window. -/
theorem witness_EveryAcceptedCommandEnds :
    (inFlight (reading 0x018 4) .enc).busy = true ∧ (inFlight (reading 0x018 4) .enc).ScheduleInWindow ∧
      (inFlight (reading 0x2FFFF 1) .enc).ScheduleInWindow := by
  refine ⟨rfl, ?_, ?_⟩ <;> intro e he <;> rw [List.mem_singleton.1 he] <;>
    show (windowOffset Build.reference _).isSome = true <;> decide

theorem witness_OnlyPlatformAddresses :
    windowOffset State.reset.build (Access.read 0x30000 4).addr = none ∧
      (reading 0x30000 4).schedule = .host (.read 0x30000 4) :: [] ∧
      State.reset.build.base ≤ 0x2FFFF ∧ 0x2FFFF < State.reset.build.base + 0x30000 := by decide

end Sys2Proof.Tests
end

/-! # The positional value functions (00_scope.md R17) -/

namespace Sys2Proof.Machine

/-- The fold of `radixValue` is the positional sum: the digit at place j of k weighs base^(k-1-j). -/
theorem radixValue_eq_sum (base : Nat) (ds : List Nat) :
    radixValue base ds = ∑ j ∈ Finset.range ds.length, ds.getD j 0 * base ^ (ds.length - 1 - j) := by
  induction ds using List.reverseRecOn with
  | nil => rfl
  | append_singleton ds d ih =>
    have shift : ∀ j ∈ Finset.range ds.length,
        (ds ++ [d]).getD j 0 * base ^ (ds.length - j) = ds.getD j 0 * base ^ (ds.length - 1 - j) * base := by
      intro j hj
      have hj : j < ds.length := Finset.mem_range.1 hj
      rw [List.getD_append _ _ _ _ hj, mul_assoc, ← pow_succ, show ds.length - 1 - j + 1 = ds.length - j by omega]
    have last : (ds ++ [d]).getD ds.length 0 = d := by simp
    rw [radixValue_concat, ih, List.length_append, List.length_singleton, Nat.add_sub_cancel, Finset.sum_range_succ,
      Finset.sum_congr rfl shift, ← Finset.sum_mul, last, Nat.sub_self, pow_zero, mul_one]

/-- BE of bytes reads each byte as its number: the place weights are those of base 256. -/
theorem beValue_eq_sum (c : List Byte) :
    beValue c = ∑ j ∈ Finset.range c.length, (c.getD j 0#8).toNat * 256 ^ (c.length - 1 - j) := by
  have byteAt (j : Nat) : (c.map BitVec.toNat).getD j 0 = (c.getD j 0#8).toNat :=
    List.getD_map c 0#8 BitVec.toNat
  simp only [beValue, radixValue_eq_sum, List.length_map, byteAt]

@[simp] theorem beBytes_length (v b : Nat) : (beBytes v b).length = b := by simp [beBytes]

@[simp] theorem digits62_length (v k : Nat) : (digits62 v k).length = k := radixDigits_length 62 k v

theorem digits62_lt (v k : Nat) : ∀ d ∈ digits62 v k, d < 62 := fun d => radixDigits_lt (by norm_num) k v d

/-- The bytes of BE_BYTES spell the value that fits them. -/
theorem beValue_beBytes {v b : Nat} (h : v < 2 ^ (8 * b)) : beValue (beBytes v b) = v := by
  have digitsAreBytes : (beBytes v b).map BitVec.toNat = radixDigits 256 b v := by
    rw [beBytes, List.map_map]
    refine (List.map_congr_left fun d hd => ?_).trans (List.map_id _)
    exact Nat.mod_eq_of_lt (radixDigits_lt (by norm_num) b v d hd)
  rw [beValue, digitsAreBytes, radixValue_radixDigits, show (256 : Nat) = 2 ^ 8 by rfl, ← pow_mul]
  exact Nat.mod_eq_of_lt h

/-- The digits of DIGITS62 spell the value that fits them. -/
theorem val62_digits62 {v k : Nat} (h : v < 62 ^ k) : val62 (digits62 v k) = v :=
  (radixValue_radixDigits 62 k v).trans (Nat.mod_eq_of_lt h)

/-- A byte sequence is recovered from its value and its length. -/
theorem beBytes_beValue (c : List Byte) : beBytes (beValue c) c.length = c := by
  have bytesAreDigits : ∀ d ∈ c.map BitVec.toNat, d < 256 := by
    intro d hd
    obtain ⟨x, -, rfl⟩ := List.mem_map.1 hd
    exact x.isLt
  have numbers := radixDigits_radixValue (c.map BitVec.toNat) bytesAreDigits
  rw [List.length_map] at numbers
  rw [beBytes, beValue, numbers, List.map_map]
  exact (List.map_congr_left fun x _ => BitVec.ofNat_toNat 8 x |>.trans x.setWidth_eq).trans (List.map_id _)

/-- Settles O17: the fold is the positional sum in any base, and the radix digits are inverse to it. -/
theorem valueFunctionsArePositional : Obligations.ValueFunctionsArePositional :=
  ⟨beValue_eq_sum, fun v b h => ⟨beBytes_length v b, beValue_beBytes h⟩,
    fun v k h => ⟨digits62_length v k, digits62_lt v k, val62_digits62 h⟩, radixValue_eq_sum 62, beBytes_beValue⟩

end Sys2Proof.Machine

/-! # The machine invariant (10_state.md R39, 60_exceptions.md R236, R240)

Every step keeps `State.Inv`. A commit is the one step that writes OBUF and the error record, so the work is in the
lengths of what ENC and DEC answer (`encodeText_length`, `decodeText_ok_length`) and in where DEC reports an error
(`decodeText_error_lt`). -/

namespace Sys2Proof.Build

/-! ### What a legal build gives (00_scope.md R8, R10) -/

variable {b : Build}

theorem WellFormed.n_pos (h : b.WellFormed) : 1 ≤ b.n := by
  obtain ⟨⟨npos, -⟩, -⟩ := h
  exact npos

theorem WellFormed.ibufBytes_pos (h : b.WellFormed) : 0 < b.ibufBytes := by
  obtain ⟨-, ⟨ibufPos, -⟩, -⟩ := h
  exact ibufPos

/-- OBUF holds the encoding of a full IBUF. -/
theorem WellFormed.encLen_ibufBytes_le (h : b.WellFormed) : Machine.encLen b.n b.ibufBytes ≤ b.obufBytes := by
  obtain ⟨-, -, -, fullInputFits⟩ := h
  exact fullInputFits

end Sys2Proof.Build

namespace Sys2Proof.Machine

/-! ### The size tables -/

/-- More bytes need at least as many digits (40_tables.md R143). -/
theorem digits_mono {a b : Nat} (h : a ≤ b) : digits a ≤ digits b :=
  (digits_spec a).2 _ ((Nat.pow_le_pow_right (by norm_num) (by omega)).trans (digits_spec b).1)

/-- A symbol carries less than 6 bits, so n bytes need 4n/3 digits or more (42_decode.md R199). -/
theorem four_mul_le_three_mul_digits (n : Nat) : 4 * n ≤ 3 * digits n := by
  have bits : 2 ^ (8 * n) ≤ 2 ^ (6 * digits n) := calc
    2 ^ (8 * n) ≤ 62 ^ digits n := (digits_spec n).1
    _ ≤ 64 ^ digits n := Nat.pow_le_pow_left (by norm_num) _
    _ = 2 ^ (6 * digits n) := by rw [pow_mul]; norm_num
  have := (Nat.pow_le_pow_iff_right (by norm_num)).1 bits
  omega

/-- A group is at least as long as its chunk. -/
theorem le_digits (n : Nat) : n ≤ digits n := by
  have := four_mul_le_three_mul_digits n
  omega

theorem dMax_pos {n : Nat} (h : 1 ≤ n) : 0 < dMax n := h.trans (le_digits n)

/-- BYTES_OF answers a table length whose groups have that many digits (40_tables.md R144). -/
theorem digits_eq_of_bytesOf {n d b : Nat} (h : bytesOf n d = some b) : digits b = d := by
  simpa using List.find?_some h

/-! ### ENC_LEN (41_encode.md R176) -/

@[simp] theorem encLen_zero (n : Nat) : encLen n 0 = 0 := by simp [encLen]

/-- The first chunk takes at most N bytes, and the rest is encoded behind it. -/
theorem encLen_eq_add {n l : Nat} (hn : 1 ≤ n) : encLen n l = digits (min n l) + encLen n (l - n) := by
  rcases Nat.lt_or_ge l n with hl | hl
  · rw [Nat.min_eq_right hl.le, Nat.sub_eq_zero_of_le hl.le, encLen_zero, encLen, Nat.div_eq_of_lt hl,
      Nat.mod_eq_of_lt hl, Nat.zero_mul, Nat.zero_add, Nat.add_zero]
  · obtain ⟨m, rfl⟩ := Nat.exists_eq_add_of_le' hl
    rw [Nat.min_eq_left hl, Nat.add_sub_cancel, encLen, encLen, Nat.add_div_right _ hn, Nat.add_mod_right, dMax]
    ring

/-- A longer input has no shorter encoding (41_encode.md R177). -/
theorem encLen_mono {n l m : Nat} (hn : 1 ≤ n) (h : l ≤ m) : encLen n l ≤ encLen n m := by
  induction m using Nat.strong_induction_on generalizing l with
  | _ m ih =>
    rcases Nat.eq_zero_or_pos l with rfl | hl
    · simp
    · rw [encLen_eq_add hn, encLen_eq_add (l := m) hn]
      exact Nat.add_le_add (digits_mono (by omega)) (ih (m - n) (by omega) (by omega))

/-- A text is at least as long as its bytes. -/
theorem le_encLen {n : Nat} (l : Nat) (hn : 1 ≤ n) : l ≤ encLen n l := by
  induction l using Nat.strong_induction_on with
  | _ l ih =>
    rcases Nat.eq_zero_or_pos l with rfl | hl
    · simp
    · have first := le_digits (min n l)
      have rest := ih (l - n) (by omega)
      rw [encLen_eq_add hn]
      omega

/-! ### Pieces -/

/-- Induction over the pieces of a sequence: what holds of the empty one, and of a sequence when it holds behind its first
piece, holds of all. -/
theorem pieces_induction {α : Type} {k : Nat} (hk : 0 < k) {P : List α → Prop} (nil : P [])
    (step : ∀ xs, xs ≠ [] → P (xs.drop k) → P xs) (xs : List α) : P xs := by
  induction hl : xs.length using Nat.strong_induction_on generalizing xs with
  | _ l ih =>
    rcases eq_or_ne xs [] with rfl | hx
    · exact nil
    · have := List.length_pos_of_ne_nil hx
      exact step xs hx (ih (l - k) (by omega) (xs.drop k) (by rw [List.length_drop, hl]))

/-- The pieces, put together, are the sequence (41_encode.md R172). -/
theorem pieces_flatten {α : Type} {k : Nat} (hk : 0 < k) (xs : List α) : (pieces k xs).flatten = xs := by
  induction xs using pieces_induction hk with
  | nil => rfl
  | step xs hx ih => rw [pieces_step hk hx, List.flatten_cons, ih, List.take_append_drop]

/-- No piece is empty. -/
theorem ne_nil_of_mem_pieces {α : Type} {k : Nat} (hk : 0 < k) (xs : List α) : ∀ g ∈ pieces k xs, g ≠ [] := by
  induction xs using pieces_induction hk with
  | nil => simp
  | step xs hx ih =>
    rw [pieces_step hk hx]
    refine List.forall_mem_cons.2 ⟨?_, ih⟩
    simp [List.take_eq_nil_iff, hx, hk.ne']

/-! ### The length of what ENC and DEC answer -/

@[simp] theorem encodeChunk_length (sel : AlphaSel) (chunk : List Byte) :
    (encodeChunk sel chunk).length = digits chunk.length := by simp [encodeChunk]

/-- The text of L bytes has ENC_LEN(L) symbols (41_encode.md R176). -/
theorem encodeText_length {n : Nat} (hn : 1 ≤ n) (sel : AlphaSel) (bytes : List Byte) :
    (encodeText n sel bytes).length = encLen n bytes.length := by
  induction bytes using pieces_induction hn with
  | nil => simp [encodeText]
  | step bytes hb ih =>
    have textSplits : encodeText n sel bytes = encodeChunk sel (bytes.take n) ++ encodeText n sel (bytes.drop n) := by
      rw [encodeText, pieces_step hn hb, List.flatMap_cons, encodeText]
    rw [textSplits, List.length_append, ih, encodeChunk_length, List.length_take, List.length_drop, ← encLen_eq_add hn]

/-- What the decode of one group can do (42_decode.md R193, R195, R196). -/
theorem decodeGroup_cases (n : Nat) (sel : AlphaSel) (p : Nat) (g : List Byte) :
    (bytesOf n g.length = none ∧ decodeGroup n sel p g = .error (.framing, p)) ∨
    ∃ b, bytesOf n g.length = some b ∧
      ((2 ^ (8 * b) ≤ groupValue sel g ∧ decodeGroup n sel p g = .error (.overflow, p)) ∨
        (groupValue sel g < 2 ^ (8 * b) ∧ decodeGroup n sel p g = .ok (beBytes (groupValue sel g) b))) := by
  cases hb : bytesOf n g.length with
  | none => exact .inl ⟨rfl, by simp [decodeGroup, hb]⟩
  | some b =>
    refine .inr ⟨b, rfl, ?_⟩
    rcases Nat.lt_or_ge (groupValue sel g) (2 ^ (8 * b)) with h | h
    · exact .inr ⟨h, by simp [decodeGroup, hb, h]⟩
    · exact .inl ⟨h, by simp [decodeGroup, hb, h]⟩

/-- A group decodes to no more bytes than it has symbols. -/
theorem decodeGroup_ok_length {n : Nat} {sel : AlphaSel} {p : Nat} {g out : List Byte}
    (h : decodeGroup n sel p g = .ok out) : out.length ≤ g.length := by
  rcases decodeGroup_cases n sel p g with ⟨-, e⟩ | ⟨b, hb, ⟨-, e⟩ | ⟨-, e⟩⟩ <;> rw [e] at h <;> cases h
  rw [beBytes_length, ← digits_eq_of_bytesOf hb]
  exact le_digits b

/-- A group that fails is reported at its own start. -/
theorem decodeGroup_error_info {n : Nat} {sel : AlphaSel} {p : Nat} {g : List Byte} {e : ErrKind × Nat}
    (h : decodeGroup n sel p g = .error e) : e.2 = p := by
  rcases decodeGroup_cases n sel p g with ⟨-, e'⟩ | ⟨b, -, ⟨-, e'⟩ | ⟨-, e'⟩⟩ <;> rw [e'] at h <;> cases h <;> rfl

/-- What the decode of a group and those behind it can do: it fails at the group, or behind it, or it answers the bytes of
both (42_decode.md R190, R197). -/
theorem decodeGroups_cons_cases (n : Nat) (sel : AlphaSel) (p : Nat) (g : List Byte) (rest : List (List Byte)) :
    (∃ e, decodeGroup n sel p g = .error e ∧ decodeGroups n sel p (g :: rest) = .error e) ∨
    ∃ out, decodeGroup n sel p g = .ok out ∧
      ((∃ e, decodeGroups n sel (p + g.length) rest = .error e ∧ decodeGroups n sel p (g :: rest) = .error e) ∨
        ∃ more, decodeGroups n sel (p + g.length) rest = .ok more ∧
          decodeGroups n sel p (g :: rest) = .ok (out ++ more)) := by
  cases hg : decodeGroup n sel p g with
  | error e => exact .inl ⟨e, rfl, by simp [decodeGroups, hg]⟩
  | ok out =>
    refine .inr ⟨out, rfl, ?_⟩
    cases hr : decodeGroups n sel (p + g.length) rest with
    | error e => exact .inl ⟨e, rfl, by simp [decodeGroups, hg, hr]⟩
    | ok more => exact .inr ⟨more, rfl, by simp [decodeGroups, hg, hr]⟩

/-- Groups decode to no more bytes than they have symbols. -/
theorem decodeGroups_ok_length {n : Nat} {sel : AlphaSel} {p : Nat} {gs : List (List Byte)} {out : List Byte}
    (h : decodeGroups n sel p gs = .ok out) : out.length ≤ gs.flatten.length := by
  induction gs generalizing p out with
  | nil => cases h; exact le_rfl
  | cons g rest ih =>
    rcases decodeGroups_cons_cases n sel p g rest with ⟨e, -, eq⟩ | ⟨a, hg, ⟨e, -, eq⟩ | ⟨more, hr, eq⟩⟩ <;>
      rw [eq] at h <;> cases h
    rw [List.length_append, List.flatten_cons, List.length_append]
    exact Nat.add_le_add (decodeGroup_ok_length hg) (ih hr)

/-- A failing group starts inside the text. -/
theorem decodeGroups_error_lt {n : Nat} {sel : AlphaSel} {p : Nat} {gs : List (List Byte)} {e : ErrKind × Nat}
    (hne : ∀ g ∈ gs, g ≠ []) (h : decodeGroups n sel p gs = .error e) : e.2 < p + gs.flatten.length := by
  induction gs generalizing p with
  | nil => cases h
  | cons g rest ih =>
    obtain ⟨hg, hrest⟩ := List.forall_mem_cons.1 hne
    have gpos : 0 < g.length := List.length_pos_of_ne_nil hg
    rw [List.flatten_cons, List.length_append]
    rcases decodeGroups_cons_cases n sel p g rest with ⟨e', he, eq⟩ | ⟨a, -, ⟨e', he, eq⟩ | ⟨more, -, eq⟩⟩ <;>
      rw [eq] at h <;> cases h
    · have := decodeGroup_error_info he
      omega
    · have := ih hrest he
      omega

/-- A text decodes to no more bytes than it has symbols (42_decode.md R199). -/
theorem decodeText_ok_length {n : Nat} (hn : 1 ≤ n) {sel : AlphaSel} {codes out : List Byte}
    (h : decodeText n sel codes = .ok out) : out.length ≤ codes.length := by
  unfold decodeText at h
  split at h
  · cases h
  · have := decodeGroups_ok_length h
    rwa [pieces_flatten (dMax_pos hn)] at this

/-- DEC reports an index of its input (60_exceptions.md R237). -/
theorem decodeText_error_lt {n : Nat} (hn : 1 ≤ n) {sel : AlphaSel} {codes : List Byte} {e : ErrKind × Nat}
    (h : decodeText n sel codes = .error e) : e.2 < codes.length := by
  unfold decodeText at h
  split at h
  next i hi =>
    cases h
    exact (List.findIdx?_eq_some_iff_findIdx_eq.1 hi).1
  next =>
    have := decodeGroups_error_lt (ne_nil_of_mem_pieces (dMax_pos hn) codes) h
    rwa [pieces_flatten (dMax_pos hn), Nat.zero_add] at this

/-! ### What a command answers fits the build -/

/-- An outcome that fits the build: an output fits OBUF, and the information of an error is an index of IBUF (00_scope.md
R10, 60_exceptions.md R237). -/
def CmdOutcome.Fits (b : Build) : CmdOutcome → Prop
  | .ok .nothing => True
  | .ok (.output out) => out.length ≤ b.obufBytes
  | .ok (.scalar _) => True
  | .error (_, info) => info < b.ibufBytes

/-- An error with information 0 fits every legal build. -/
theorem fits_error_zero {b : Build} (hb : b.WellFormed) (k : ErrKind) : CmdOutcome.Fits b (.error (k, 0)) :=
  hb.ibufBytes_pos

theorem lookupOutcome_fits {b : Build} (hb : b.WellFormed) (entry : Option Nat) (k : ErrKind) :
    (lookupOutcome entry k).Fits b := by
  cases entry with
  | none => exact fits_error_zero hb k
  | some v => trivial

/-- The encoding of an input that fits IBUF fits OBUF, because that of a full IBUF does (00_scope.md R10). -/
theorem encOutcome_fits {s : State} (hb : s.build.WellFormed) : (encOutcome s).Fits s.build := by
  rcases Nat.lt_or_ge s.build.ibufBytes s.inLen.toNat with hl | hl
  · rw [encOutcome, State.checkedInput_error hl]
    exact fits_error_zero hb _
  · rw [encOutcome, State.checkedInput_ok hl]
    dsimp only
    split
    · exact fits_error_zero hb _
    · show (encodeText s.build.n s.alphaSel s.input).length ≤ s.build.obufBytes
      rw [encodeText_length hb.n_pos, State.input_length]
      exact (encLen_mono hb.n_pos hl).trans hb.encLen_ibufBytes_le

/-- The decoding of an input that fits IBUF is no longer than the input, and OBUF is no smaller than IBUF. -/
theorem decOutcome_fits {s : State} (hb : s.build.WellFormed) : (decOutcome s).Fits s.build := by
  rcases Nat.lt_or_ge s.build.ibufBytes s.inLen.toNat with hl | hl
  · rw [decOutcome, State.checkedInput_error hl]
    exact fits_error_zero hb _
  · rw [decOutcome, State.checkedInput_ok hl]
    have inputFits : s.input.length ≤ s.build.ibufBytes := by rwa [State.input_length]
    cases hd : decodeText s.build.n s.alphaSel s.input with
    | error e =>
      simp only [hd]
      exact (decodeText_error_lt hb.n_pos hd).trans_le inputFits
    | ok out =>
      simp only [hd]
      calc
        out.length ≤ s.build.ibufBytes := (decodeText_ok_length hb.n_pos hd).trans inputFits
        _ ≤ encLen s.build.n s.build.ibufBytes := le_encLen _ hb.n_pos
        _ ≤ s.build.obufBytes := hb.encLen_ibufBytes_le

/-- Whatever a command answers fits a legal build. -/
theorem outcomeOf_fits {s : State} (hb : s.build.WellFormed) (i : Instr) : (outcomeOf s i).Fits s.build := by
  cases i with
  | nop => trivial
  | enc => exact encOutcome_fits hb
  | dec => exact decOutcome_fits hb
  | lutd n => exact lookupOutcome_fits hb _ _
  | lutb d => exact lookupOutcome_fits hb _ _
  | s2d c =>
    rw [outcomeOf]
    split
    · exact fits_error_zero hb _
    · exact lookupOutcome_fits hb _ _
  | d2s k => exact lookupOutcome_fits hb _ _

/-! ### The error record -/

/-- A record with no error in it is consistent, whatever OUT_LEN and RESULT hold. -/
theorem State.ErrorRecordOk.of_clean {s : State} (hb : s.build.WellFormed) (err : s.err = false)
    (errCode : s.errCode = 0#4) (errInfo : s.errInfo = 0#32) : s.ErrorRecordOk where
  code_le := by simp [errCode]
  err_iff := by simp [err, errCode]
  clean := fun _ => errInfo
  outLen_zero := by simp [err]
  result_zero := by simp [err]
  info_lt := by rw [errInfo]; exact hb.ibufBytes_pos

/-- A consistent record without an error is the cleared one. -/
theorem State.ErrorRecordOk.errCode_eq_zero {s : State} (h : s.ErrorRecordOk) (err : s.err = false) :
    s.errCode = 0#4 := by
  by_contra hc
  simp [h.err_iff.2 hc] at err

/-- The numbers of the error kinds are 1..7 (60_exceptions.md R230). -/
theorem ErrKind.code_range (k : ErrKind) : k.code ≠ 0#4 ∧ k.code.toNat ≤ 7 := by
  cases k <;> decide

/-- An error commit leaves a consistent record (60_exceptions.md R236, R239). -/
theorem RaisedBy.errorRecordOk {s t : State} {k : ErrKind} {info : Nat} (h : RaisedBy s t k info)
    (hi : info < s.build.ibufBytes) : t.ErrorRecordOk where
  code_le := by rw [h.errCode]; exact k.code_range.2
  err_iff := by simp [h.err, h.errCode, k.code_range.1]
  clean := by simp [h.err]
  outLen_zero := fun _ => h.outLen
  result_zero := fun _ => h.result
  info_lt := by
    rw [h.errInfo, h.frame.build, BitVec.toNat_ofNat]
    exact (Nat.mod_le _ _).trans_lt hi

/-! ### Each update keeps the invariant -/

/-- An update that leaves the build, OBUF, the error record, OUT_LEN, RESULT and BUSY alone, keeps IBUF canonical and does
not raise DONE keeps the invariant. -/
theorem State.Inv.of_same {s t : State} (h : s.Inv) (build : t.build = s.build)
    (ibuf : Memory.wf s.build.ibufBytes t.ibuf) (obuf : t.obuf = s.obuf) (record : SameErrorRecord s t)
    (outLen : t.outLen = s.outLen) (result : t.result = s.result) (busy : t.busy = s.busy)
    (done : t.done = true → s.done = true) : t.Inv where
  build_wf := by rw [build]; exact h.build_wf
  ibuf_wf := by rw [build]; exact ibuf
  obuf_wf := by rw [build, obuf]; exact h.obuf_wf
  record :=
    { code_le := by rw [record.errCode]; exact h.record.code_le
      err_iff := by rw [record.err, record.errCode]; exact h.record.err_iff
      clean := by rw [record.err, record.errInfo]; exact h.record.clean
      outLen_zero := by rw [record.err, outLen]; exact h.record.outLen_zero
      result_zero := by rw [record.err, result]; exact h.record.result_zero
      info_lt := by rw [record.errInfo, build]; exact h.record.info_lt }
  busy_done := by
    intro hb
    have idle := h.busy_done (busy ▸ hb)
    by_contra hd
    simp [done (by simpa using hd)] at idle
  busy_err := by rw [busy, record.err]; exact h.busy_err
  outLen_le := by rw [outLen, build]; exact h.outLen_le

/-- What the environment does next is no part of the invariant. -/
theorem State.Inv.withSchedule {s : State} (h : s.Inv) (rest : List Event) : ({ s with schedule := rest } : State).Inv :=
  h.of_same rfl h.ibuf_wf rfl ⟨rfl, rfl, rfl⟩ rfl rfl rfl id

theorem State.Inv.respond {s : State} (h : s.Inv) (r : Response) : (s.respond r).Inv :=
  h.of_same rfl h.ibuf_wf rfl ⟨rfl, rfl, rfl⟩ rfl rfl rfl id

theorem State.Inv.ignoreWrite {s : State} (h : s.Inv) : s.ignoreWrite.Inv :=
  h.of_same rfl h.ibuf_wf rfl ⟨rfl, rfl, rfl⟩ rfl rfl rfl id

theorem State.Inv.writeCfg {s : State} (h : s.Inv) (w : Word) : (s.writeCfg w).Inv :=
  h.of_same rfl h.ibuf_wf rfl ⟨rfl, rfl, rfl⟩ rfl rfl rfl id

theorem State.Inv.writeInLen {s : State} (h : s.Inv) (w : Word) : (s.writeInLen w).Inv :=
  h.of_same rfl h.ibuf_wf rfl ⟨rfl, rfl, rfl⟩ rfl rfl rfl id

/-- A write of STATUS can only clear DONE (10_state.md R38). -/
theorem State.Inv.writeStatus {s : State} (h : s.Inv) (w : Word) : (s.writeStatus w).Inv :=
  h.of_same rfl h.ibuf_wf rfl ⟨rfl, rfl, rfl⟩ rfl rfl rfl (fun hd => (Bool.and_eq_true_iff.1 hd).1)

theorem State.Inv.writeIbuf {s : State} (h : s.Inv) {i : Nat} {bytes : List Byte}
    (fits : i + bytes.length ≤ s.build.ibufBytes) : (s.writeIbuf i bytes).Inv :=
  h.of_same rfl (Memory.wf_writeAll bytes h.ibuf_wf fits) rfl ⟨rfl, rfl, rfl⟩ rfl rfl rfl id

/-- The accept clears DONE and the error record (60_exceptions.md R240). -/
theorem State.Inv.accept {s : State} (h : s.Inv) (w : Word) : (s.accept w).Inv where
  build_wf := h.build_wf
  ibuf_wf := h.ibuf_wf
  obuf_wf := h.obuf_wf
  record := .of_clean h.build_wf rfl rfl rfl
  busy_done := fun _ => rfl
  busy_err := fun _ => rfl
  outLen_le := h.outLen_le

/-- The soft reset clears the registers and keeps the buffers (70_reset_and_hazards.md R263). -/
theorem State.Inv.softReset {s : State} (h : s.Inv) : s.softReset.Inv where
  build_wf := h.build_wf
  ibuf_wf := h.ibuf_wf
  obuf_wf := h.obuf_wf
  record := .of_clean h.build_wf rfl rfl rfl
  busy_done := fun _ => rfl
  busy_err := fun _ => rfl
  outLen_le := Nat.zero_le _

/-- The power-on reset clears the registers and forgets the buffers (70_reset_and_hazards.md R260, R261). -/
theorem State.Inv.powerOnReset {s : State} (h : s.Inv) : s.powerOnReset.Inv where
  build_wf := h.build_wf
  ibuf_wf := Memory.wf_nil _
  obuf_wf := Memory.wf_nil _
  record := .of_clean h.build_wf rfl rfl rfl
  busy_done := fun _ => rfl
  busy_err := fun _ => rfl
  outLen_le := Nat.zero_le _

/-- A write of CTRL is the soft reset or a write of IE (10_state.md R35). -/
theorem State.Inv.writeCtrl {s : State} (h : s.Inv) (w : Word) : (s.writeCtrl w).Inv := by
  rw [State.writeCtrl]
  split
  · exact h.softReset
  · exact h.of_same rfl h.ibuf_wf rfl ⟨rfl, rfl, rfl⟩ rfl rfl rfl id

/-- A host write keeps the invariant where it lands (20_memory.md R87, R88). -/
theorem State.Inv.writeTarget {s : State} (h : s.Inv) {off : Nat} {lanes : List Byte} {tg : Target}
    (lands : target s.build off lanes.length = some tg) : (s.writeTarget lanes tg).Inv := by
  rcases s.writeTarget_cases lanes tg with e | ⟨-, e, -⟩ | ⟨-, -, e⟩ | ⟨-, -, e⟩ | ⟨-, -, e⟩ | ⟨-, e⟩ | ⟨-, e⟩ |
    ⟨-, i, rfl, e⟩ <;> rw [e]
  · exact h
  · exact h.ignoreWrite
  · exact h.accept _
  · exact h.writeCfg _
  · exact h.writeInLen _
  · exact h.writeCtrl _
  · exact h.writeStatus _
  · exact h.writeIbuf (target_eq_ibuf lands).2

/-! ### The commit keeps the invariant -/

/-- An error commit: the record of R236, and the buffers as they were. -/
theorem State.Inv.commit_error {s : State} (h : s.Inv) {k : ErrKind} {info : Nat} (hi : info < s.build.ibufBytes) :
    (s.commit (.error (k, info))).Inv where
  build_wf := h.build_wf
  ibuf_wf := h.ibuf_wf
  obuf_wf := h.obuf_wf
  record := (s.commit_error k info).errorRecordOk hi
  busy_done := by simp [(s.commit_error k info).busy]
  busy_err := by simp [(s.commit_error k info).busy]
  outLen_le := Nat.zero_le _

/-- A commit without error: the accept left the record clean, and the effects do not touch it. -/
theorem State.Inv.commit_ok {s : State} (h : s.Inv) (busy : s.busy = true) {e : Effects}
    (fits : CmdOutcome.Fits s.build (.ok e)) : (s.commit (.ok e)).Inv := by
  have err : s.err = false := h.busy_err busy
  have clean (t : State) (build : t.build = s.build) (record : SameErrorRecord s t) : t.ErrorRecordOk :=
    .of_clean (build ▸ h.build_wf) (record.err.trans err) (record.errCode.trans (h.record.errCode_eq_zero err))
      (record.errInfo.trans (h.record.clean err))
  cases e with
  | nothing =>
    exact ⟨h.build_wf, h.ibuf_wf, h.obuf_wf, clean _ rfl ⟨rfl, rfl, rfl⟩, nofun, nofun, h.outLen_le⟩
  | scalar v =>
    exact ⟨h.build_wf, h.ibuf_wf, h.obuf_wf, clean _ rfl (s.commit_scalar v).record, nofun, nofun, h.outLen_le⟩
  | output out =>
    have fits : out.length ≤ s.build.obufBytes := fits
    have obuf := Memory.wf_writeAll out h.obuf_wf ((Nat.zero_add _).trans_le fits)
    refine ⟨h.build_wf, h.ibuf_wf, obuf, clean _ rfl (s.commit_output out).record, nofun, nofun, ?_⟩
    rw [(s.commit_output out).outLen, BitVec.toNat_ofNat]
    exact (Nat.mod_le _ _).trans fits

/-- The commit of a command in flight whose outcome fits the build (60_exceptions.md R236). -/
theorem State.Inv.commit {s : State} (h : s.Inv) (busy : s.busy = true) {o : CmdOutcome} (fits : o.Fits s.build) :
    (s.commit o).Inv := by
  cases o with
  | ok e => exact h.commit_ok busy fits
  | error e => exact h.commit_error fits

/-- Settles O56, by the cases of a step: each keeps the invariant. -/
theorem everyStepKeepsTheMachineInvariant : Obligations.EveryStepKeepsTheMachineInvariant := by
  intro s t h hstep
  cases step_cases hstep with
  | idle rest _ _ eq => exact eq ▸ h.withSchedule rest
  | commit rest _ busy o outcome eq =>
    rw [eq]
    refine (h.withSchedule rest).commit busy ?_
    rcases outcome with ⟨i, -, rfl⟩ | ⟨-, rfl⟩
    · exact outcomeOf_fits h.build_wf i
    · exact fits_error_zero h.build_wf _
  | powerOn rest _ eq => exact eq ▸ (h.withSchedule rest).powerOnReset
  | respond a rest _ r eq => exact eq ▸ (h.withSchedule rest).respond r
  | write off lanes rest _ tg lands eq => exact eq ▸ ((h.withSchedule rest).writeTarget lands).respond .ack

end Sys2Proof.Machine

/-! # Registers, flags and IBUF (10_state.md R31 to R45)

First the layer: what one step does when a given access comes next, and what any step can do to BUSY, DONE and WIGN
(`step_flags`). The statements are short uses of it. -/

namespace Sys2Proof.Machine

/-- A step has one answer. -/
theorem step_unique {s t u : State} (ht : step s = .next t) (hu : step s = .next u) : t = u := by
  rw [ht] at hu
  injection hu

/-! ### A host access at an offset of the window -/

section HostAccess

variable {s : State} {rest : List Event} {off width i : Nat} {lanes : List Byte} {tg : Target} {r : Reg} {w : Word}

/-- A register's offset is inside the window (20_memory.md R80, R81). -/
theorem regOffset_lt_windowBytes (r : Reg) : regOffset r < windowBytes := by
  cases r <;> decide

/-- A read that lands: its data on the response, and nothing else (20_memory.md R89). -/
theorem step_read (next : s.schedule = .host (.read (s.build.base + off) width) :: rest) (inside : off < windowBytes)
    (lands : target s.build off width = some tg) :
    step s = .next (({ s with schedule := rest } : State).respond (.data (s.readTarget width tg))) := by
  rw [step_host next, hostAccess]
  simp only [Access.addr, windowOffset_add s.build inside, State.busRead, lands]
  cases tg <;> rfl

/-- A write that lands: its effect, acknowledged (20_memory.md R89). -/
theorem step_write (next : s.schedule = .host (.write (s.build.base + off) lanes) :: rest) (inside : off < windowBytes)
    (lands : target s.build off lanes.length = some tg) :
    step s = .next ((({ s with schedule := rest } : State).writeTarget lanes tg).respond .ack) := by
  rw [step_host next, hostAccess]
  simp only [Access.addr, windowOffset_add s.build inside, State.busWrite, lands]

/-- A 4-byte read of a register (20_memory.md R81, R84, R89). -/
theorem step_readReg (r : Reg) (next : s.schedule = .host (.read (s.build.base + regOffset r) 4) :: rest) :
    step s = .next { s with schedule := rest, response := .data (lanesOfWord (s.readReg r)) } :=
  step_read next (regOffset_lt_windowBytes r) (target_reg s.build r)

/-- A write of four lanes to a register (20_memory.md R81, R84, R89). -/
theorem step_writeRegLanes (r : Reg) (four : lanes.length = 4)
    (next : s.schedule = .host (.write (s.build.base + regOffset r) lanes) :: rest) :
    step s = .next ((({ s with schedule := rest } : State).writeReg r (wordOfLanes lanes)).respond .ack) :=
  step_write (tg := .reg r) next (regOffset_lt_windowBytes r) (by rw [four]; exact target_reg s.build r)

/-- A 4-byte write of the word `w` to a register (20_memory.md R81, R84, R89). -/
theorem step_writeReg (r : Reg) (next : s.schedule = w32Event s.build (regOffset r) w :: rest) :
    step s = .next ((({ s with schedule := rest } : State).writeReg r w).respond .ack) := by
  rw [step_writeRegLanes r (lanesOfWord_length w) next, wordOfLanes_lanesOfWord]

/-- A write of CTRL with SRST = 1 (10_state.md R35). -/
theorem State.writeCtrl_srst (s : State) (srst : w.getLsbD 31 = true) : s.writeCtrl w = s.softReset :=
  if_pos srst

/-- A write of CTRL with SRST = 0 (10_state.md R35). -/
theorem State.writeCtrl_ie (s : State) (srst : w.getLsbD 31 = false) :
    s.writeCtrl w = { s with ie := w.getLsbD 0 } :=
  if_neg (srst ▸ Bool.false_ne_true)

/-- Where an access of IBUF lands, from the access (20_memory.md R82, R86). -/
theorem target_ibuf {b : Build} (wf : b.WellFormed) (access : BufferAccess b.ibufBytes i width) :
    target b (ibufOffset + i) width = some (.ibuf i) ∧ ibufOffset + i < windowBytes := by
  have inBuffer : i < b.ibufBytes ∧ b.ibufBytes ≤ 65536 := by
    obtain ⟨-, ⟨-, ibufLe⟩, -⟩ := wf
    obtain ⟨widths, -, fits⟩ := access
    omega
  have below : ibufOffset + i < obufOffset := by
    simp only [ibufOffset, obufOffset]
    omega
  refine ⟨?_, below.trans (by decide)⟩
  rw [target, if_neg (by omega), if_pos below, Nat.add_sub_cancel_left, if_pos ((bufferAllows_iff _ _ _).2 access)]

/-- The access of IBUF, from where it lands (20_memory.md R82, R86). -/
theorem bufferAccess_of_target_ibuf {b : Build} (lands : target b off width = some (.ibuf i)) :
    BufferAccess b.ibufBytes i width := by
  rw [(target_eq_ibuf lands).1, target, if_neg (by omega), Nat.add_sub_cancel_left] at lands
  split at lands <;> split at lands <;> simp at lands
  exact (bufferAllows_iff _ _ _).1 ‹_›

/-! ### What each host write does -/

/-- A write of CMD, CFG or IN_LEN while BUSY = 1 is ignored (70_reset_and_hazards.md R262). -/
theorem step_writeReg_busy {r : Reg} (frozen : r = .cfg ∨ r = .cmd ∨ r = .inLen) (busy : s.busy = true)
    (next : s.schedule = w32Event s.build (regOffset r) w :: rest) :
    step s = .next { s with wign := true, schedule := rest, response := .ack } := by
  rw [step_writeReg r next]
  rcases frozen with rfl | rfl | rfl <;> simp only [State.writeReg, busy, if_true] <;> rfl

/-- A write of CMD while BUSY = 0 is the accept (60_exceptions.md R240). -/
theorem step_writeCmd_idle (idle : s.busy = false) (next : s.schedule = w32Event s.build (regOffset .cmd) w :: rest) :
    step s = .next ((({ s with schedule := rest } : State).accept w).respond .ack) := by
  rw [step_writeReg .cmd next]
  simp [State.writeReg, idle]

/-- A write of CFG while BUSY = 0 (10_state.md R33, R34). -/
theorem step_writeCfg_idle (idle : s.busy = false) (next : s.schedule = w32Event s.build (regOffset .cfg) w :: rest) :
    step s = .next ((({ s with schedule := rest } : State).writeCfg w).respond .ack) := by
  rw [step_writeReg .cfg next]
  simp [State.writeReg, idle]

/-- A write of IN_LEN while BUSY = 0 (10_state.md R42). -/
theorem step_writeInLen_idle (idle : s.busy = false)
    (next : s.schedule = w32Event s.build (regOffset .inLen) w :: rest) :
    step s = .next ((({ s with schedule := rest } : State).writeInLen w).respond .ack) := by
  rw [step_writeReg .inLen next]
  simp [State.writeReg, idle]

/-- A write of CTRL with SRST = 1, whatever BUSY is (10_state.md R35, 70_reset_and_hazards.md R263). -/
theorem step_writeCtrl_srst (four : lanes.length = 4) (srst : (wordOfLanes lanes).getLsbD 31 = true)
    (next : s.schedule = .host (.write (s.build.base + regOffset .ctrl) lanes) :: rest) :
    step s = .next (({ s with schedule := rest } : State).softReset.respond .ack) := by
  rw [step_writeRegLanes .ctrl four next, State.writeReg, State.writeCtrl_srst _ srst]

/-- A write of CTRL with SRST = 0, whatever BUSY is (10_state.md R35). -/
theorem step_writeCtrl_ie (srst : w.getLsbD 31 = false)
    (next : s.schedule = w32Event s.build (regOffset .ctrl) w :: rest) :
    step s = .next { s with ie := w.getLsbD 0, schedule := rest, response := .ack } := by
  rw [step_writeReg .ctrl next, State.writeReg, State.writeCtrl_ie _ srst]
  rfl

/-- An allowed write of IBUF while BUSY = 0 (10_state.md R45). -/
theorem step_writeIbuf_idle (wf : s.build.WellFormed) (access : BufferAccess s.build.ibufBytes i lanes.length)
    (idle : s.busy = false) (next : s.schedule = .host (.write (s.build.base + (ibufOffset + i)) lanes) :: rest) :
    step s = .next ((({ s with schedule := rest } : State).writeIbuf i lanes).respond .ack) := by
  obtain ⟨lands, inside⟩ := target_ibuf wf access
  rw [step_write next inside lands]
  simp [State.writeTarget, idle]

/-- An allowed write of IBUF while BUSY = 1 is ignored (70_reset_and_hazards.md R262). -/
theorem step_writeIbuf_busy (wf : s.build.WellFormed) (access : BufferAccess s.build.ibufBytes i lanes.length)
    (busy : s.busy = true) (next : s.schedule = .host (.write (s.build.base + (ibufOffset + i)) lanes) :: rest) :
    step s = .next { s with wign := true, schedule := rest, response := .ack } := by
  obtain ⟨lands, inside⟩ := target_ibuf wf access
  rw [step_write next inside lands]
  simp only [State.writeTarget, busy, if_true]
  rfl

end HostAccess

/-! ### The core's turn, and runs -/

/-- A run whose first step answers a next state goes on from there. -/
theorem run_succ {s t : State} (hstep : step s = .next t) (k : Nat) : core.run (k + 1) s = core.run k t := by
  have first : core.step s = .next t := hstep
  simp only [Host.Core.run, first]

/-- The core's turn, wherever the schedule has it (20_memory.md R91). -/
theorem step_coreTurn {s : State} {rest : List Event} (turn : s.CoreTurnNext rest) :
    step s = coreTurn { s with schedule := rest } := by
  rcases turn with ⟨hs, rfl⟩ | hs
  · rw [step_nil hs, ← hs]
  · exact step_core hs

/-- The core's turn with a command in flight is a commit (60_exceptions.md R236). -/
theorem coreTurn_busy {s : State} (busy : s.busy = true) : ∃ o, coreTurn s = .next (s.commit o) := by
  rcases coreTurn_cases s with ⟨idle, -⟩ | ⟨i, -, -, eq⟩ | ⟨e, -, -, eq⟩
  · simp [busy] at idle
  · exact ⟨_, eq.trans (exec_eq_commit i s)⟩
  · exact ⟨_, eq⟩

/-- Every commit ends with BUSY = 0 and DONE = 1 and keeps WIGN (10_state.md R37, R38, R40). -/
theorem State.commit_flags (s : State) (o : CmdOutcome) :
    (s.commit o).busy = false ∧ (s.commit o).done = true ∧ (s.commit o).wign = s.wign := by
  rcases o with e | e
  · exact ⟨rfl, rfl, rfl⟩
  · cases e <;> exact ⟨rfl, rfl, rfl⟩

/-! ### Resets -/

/-- The power-on reset state has every register at its reset value (10_state.md R51). -/
theorem State.reset_registersReset : State.reset.RegistersReset := ⟨rfl, rfl, rfl, rfl, rfl, rfl, rfl, rfl⟩

theorem State.powerOnReset_registersReset (s : State) : s.powerOnReset.RegistersReset :=
  have reset := State.reset_registersReset
  ⟨reset.cfg, reset.ctrl, reset.status, rfl, rfl, rfl, rfl, rfl⟩

theorem State.softReset_registersReset (s : State) : s.softReset.RegistersReset :=
  have reset := State.reset_registersReset
  ⟨reset.cfg, reset.ctrl, reset.status, rfl, rfl, rfl, rfl, rfl⟩

/-- The response is no register. -/
theorem State.RegistersReset.respond {s : State} (h : s.RegistersReset) (r : Response) :
    (s.respond r).RegistersReset :=
  ⟨h.cfg, h.ctrl, h.status, h.cmd, h.inLen, h.outLen, h.result, h.errInfo⟩

/-- A reset, by the input or by SRST, clears BUSY, DONE and WIGN (70_reset_and_hazards.md R260, R263). -/
theorem step_resetNext {s t : State} (reset : s.ResetNext) (hstep : step s = .next t) :
    t.busy = false ∧ t.done = false ∧ t.wign = false := by
  rcases reset with ⟨rest, next⟩ | ⟨lanes, rest, next, four, srst⟩
  · obtain rfl := step_unique hstep (step_powerOn next)
    exact ⟨rfl, rfl, rfl⟩
  · obtain rfl := step_unique hstep (step_writeCtrl_srst four srst next)
    exact ⟨rfl, rfl, rfl⟩

/-! ### What a step can do to BUSY, DONE and WIGN -/

/-- The offsets whose host writes the busy window ignores (70_reset_and_hazards.md R262): CFG, CMD, IN_LEN and IBUF. -/
def Frozen (b : Build) (off : Nat) : Prop :=
  off ∈ [0x010, 0x01C, 0x020] ∨ 0x10000 ≤ off ∧ off < 0x10000 + b.ibufBytes

/-- How a step from `s` to `t` treats BUSY, DONE and WIGN, with the event that made it do so (10_state.md R37, R38,
R40). -/
inductive FlagCases (s t : State) : Prop where
  | keeps (busy : t.busy = s.busy) (done : t.done = s.done) (wign : t.wign = s.wign)
  | ignored (off : Nat) (lanes : List Byte) (rest : List Event)
      (next : s.schedule = .host (.write (s.build.base + off) lanes) :: rest) (frozen : Frozen s.build off)
      (inFlight : s.busy = true) (busy : t.busy = s.busy) (done : t.done = s.done) (wign : t.wign = true)
  | accept (lanes : List Byte) (rest : List Event)
      (next : s.schedule = .host (.write (s.build.base + 0x1C) lanes) :: rest) (cmd : t.cmd = wordOfLanes lanes)
      (idle : s.busy = false) (busy : t.busy = true) (done : t.done = false) (wign : t.wign = s.wign)
  | commit (rest : List Event) (turn : s.CoreTurnNext rest) (inFlight : s.busy = true) (busy : t.busy = false)
      (done : t.done = true) (wign : t.wign = s.wign)
  | reset (next : s.ResetNext) (busy : t.busy = false) (done : t.done = false) (wign : t.wign = false)
  | status (lanes : List Byte) (rest : List Event)
      (next : s.schedule = .host (.write (s.build.base + 0x18) lanes) :: rest) (busy : t.busy = s.busy)
      (done : t.done = (s.done && !(wordOfLanes lanes).getLsbD 1))
      (wign : t.wign = (s.wign && !(wordOfLanes lanes).getLsbD 3))

/-- A write that the busy window ignores lands at a frozen offset (70_reset_and_hazards.md R262). -/
theorem frozen_of_target {b : Build} {off width : Nat} {tg : Target} (lands : target b off width = some tg)
    (ignored : tg = .reg .cmd ∨ tg = .reg .cfg ∨ tg = .reg .inLen ∨ ∃ i, tg = .ibuf i) : Frozen b off := by
  rcases ignored with rfl | rfl | rfl | ⟨i, rfl⟩
  case inl | inr.inl | inr.inr.inl => exact .inl (by simp [(target_eq_reg lands).1, regOffset])
  case inr.inr.inr =>
    obtain ⟨widths, -, fits⟩ := bufferAccess_of_target_ibuf lands
    have offset : off = 0x10000 + i := (target_eq_ibuf lands).1
    exact .inr (by omega)

/-- What a host write that landed did to the flags. -/
theorem FlagCases.of_write {s : State} {off : Nat} {lanes : List Byte} {rest : List Event} {tg : Target}
    (next : s.schedule = .host (.write (s.build.base + off) lanes) :: rest)
    (lands : target s.build off lanes.length = some tg) :
    FlagCases s ((({ s with schedule := rest } : State).writeTarget lanes tg).respond .ack) := by
  rcases State.writeTarget_cases { s with schedule := rest } lanes tg with e | ⟨busy, e, ignored⟩ | ⟨idle, rfl, e⟩ |
    ⟨-, -, e⟩ | ⟨-, -, e⟩ | ⟨rfl, e⟩ | ⟨rfl, e⟩ | ⟨-, i, -, e⟩ <;> rw [e]
  · exact .keeps rfl rfl rfl
  · exact .ignored off lanes rest next (frozen_of_target lands ignored) busy rfl rfl rfl
  · obtain ⟨rfl, -⟩ := target_eq_reg lands
    exact .accept lanes rest next rfl idle rfl rfl rfl
  · exact .keeps rfl rfl rfl
  · exact .keeps rfl rfl rfl
  · obtain ⟨rfl, four⟩ := target_eq_reg lands
    cases srst : (wordOfLanes lanes).getLsbD 31 with
    | true =>
      rw [State.writeCtrl_srst _ srst]
      exact .reset (.inr ⟨lanes, rest, next, four, srst⟩) rfl rfl rfl
    | false =>
      rw [State.writeCtrl_ie _ srst]
      exact .keeps rfl rfl rfl
  · obtain ⟨rfl, -⟩ := target_eq_reg lands
    exact .status lanes rest next rfl rfl rfl
  · exact .keeps rfl rfl rfl

/-- What any step did to the flags. -/
theorem step_flags {s t : State} (hstep : step s = .next t) : FlagCases s t := by
  cases step_cases hstep with
  | idle rest _ _ eq => exact eq ▸ .keeps rfl rfl rfl
  | commit rest turn busy o _ eq =>
    obtain ⟨busy', done', wign'⟩ := State.commit_flags { s with schedule := rest } o
    exact eq ▸ .commit rest turn busy busy' done' wign'
  | powerOn rest next eq => exact eq ▸ .reset (.inl ⟨rest, next⟩) rfl rfl rfl
  | respond a rest _ r eq => exact eq ▸ .keeps rfl rfl rfl
  | write off lanes rest next tg lands eq => exact eq ▸ .of_write next lands

/-! ### The statements on the buffers and flags -/

/-- Settles O47: the write is `writeIbuf`, whose read-back and canonical form are laws of buffer memory. -/
theorem ibufWriteStoresItsLanesOnly : Obligations.IbufWriteStoresItsLanesOnly := by
  intro s rest i lanes wf idle access next
  have ⟨_, _, fits⟩ := access
  have readBack (j : Nat) := State.ibufAt_writeIbuf { s with schedule := rest } i j lanes
  refine ⟨_, step_writeIbuf_idle wf access idle next, rfl, fun k x hk => ?_, fun j hj => ?_,
    fun canonical => Memory.wf_writeAll lanes canonical fits⟩
  · obtain ⟨inside, rfl⟩ := List.getElem?_eq_some_iff.1 hk
    refine (readBack (i + k)).trans ((dif_pos (by omega)).trans ?_)
    simp only [Nat.add_sub_cancel_left]
  · exact (readBack j).trans (dif_neg (by omega))

/-- Settles O53: the first four clauses by what the next event does, the others by `step_flags`, where the cases not named
do not change the flag in question that way. -/
theorem busyAndDoneChangeOnlyByTheLifecycle : Obligations.BusyAndDoneChangeOnlyByTheLifecycle := by
  intro s t hstep
  have flags := step_flags hstep
  refine ⟨fun w rest next idle => ?_, fun rest turn inFlight => ?_, fun reset => ?_, fun w rest next bit => ?_,
    fun idle busy => ?_, fun inFlight idle => ?_, fun pending finished => ?_, fun finished cleared => ?_⟩
  · obtain rfl := step_unique hstep (step_writeCmd_idle idle next)
    exact ⟨rfl, rfl⟩
  · obtain ⟨o, commits⟩ := coreTurn_busy (s := { s with schedule := rest }) inFlight
    obtain rfl := step_unique hstep ((step_coreTurn turn).trans commits)
    obtain ⟨busy, done, -⟩ := State.commit_flags { s with schedule := rest } o
    exact ⟨busy, done⟩
  · obtain ⟨busy, done, -⟩ := step_resetNext reset hstep
    exact ⟨busy, done⟩
  · obtain rfl := step_unique hstep (step_writeReg .status next)
    simp [State.writeReg, bit]
  · cases flags with
    | accept lanes rest next cmd _ _ done => exact ⟨done, lanes, rest, next, cmd⟩
    | _ => simp_all
  · cases flags with
    | commit rest turn _ _ done => exact .inl ⟨done, rest, turn⟩
    | reset next => exact .inr next
    | _ => simp_all
  · cases flags with
    | commit rest turn inFlight busy => exact ⟨inFlight, busy, rest, turn⟩
    | _ => simp_all
  · cases flags with
    | reset next => exact .inl next
    | accept _ _ _ _ idle busy => exact .inr (.inl ⟨idle, busy⟩)
    | status lanes rest next _ done => exact .inr (.inr ⟨lanes, rest, next, by simpa [finished, cleared] using done⟩)
    | _ => simp_all

/-- Settles O54, in the same two ways as O53: what an event does, and what a change of WIGN comes from. -/
theorem wignIsSticky : Obligations.WignIsSticky := by
  intro s t hstep
  have flags := step_flags hstep
  refine ⟨fun off w rest frozen next inFlight => ?_, fun i lanes rest wf access next inFlight => ?_,
    fun w rest next bit => ?_, fun reset => ?_, fun clear sets => ?_, fun set clears => ?_, fun set idle busy => ?_⟩
  · simp only [List.mem_cons, List.not_mem_nil, or_false] at frozen
    rcases frozen with rfl | rfl | rfl
    · exact step_unique hstep (step_writeReg_busy (r := .cfg) (by simp) inFlight next) ▸ rfl
    · exact step_unique hstep (step_writeReg_busy (r := .cmd) (by simp) inFlight next) ▸ rfl
    · exact step_unique hstep (step_writeReg_busy (r := .inLen) (by simp) inFlight next) ▸ rfl
  · exact step_unique hstep (step_writeIbuf_busy wf access inFlight next) ▸ rfl
  · obtain rfl := step_unique hstep (step_writeReg .status next)
    simp [State.writeReg, bit]
  · obtain ⟨-, -, wign⟩ := step_resetNext reset hstep
    exact wign
  · cases flags with
    | ignored off lanes rest next frozen inFlight => exact ⟨inFlight, off, lanes, rest, next, frozen⟩
    | _ => simp_all
  · cases flags with
    | reset next => exact .inl next
    | status lanes rest next _ _ wign => exact .inr ⟨lanes, rest, next, by simpa [set, clears] using wign⟩
    | _ => simp_all
  · cases flags with
    | accept _ _ _ _ _ _ _ wign => exact wign.trans set
    | _ => simp_all

/-! ### The words of the registers -/

/-- The fields of PARAM0 (10_state.md R32). -/
theorem param0Word_fields (b : Build) :
    (param0Word b).extractLsb' 0 16 = BitVec.ofNat 16 b.n ∧
      (param0Word b).extractLsb' 16 16 = BitVec.ofNat 16 (dMax b.n) :=
  ⟨BitVec.extractLsb'_append_eq_right, BitVec.extractLsb'_append_eq_left⟩

/-- The fields of STATUS (10_state.md R36). -/
theorem State.statusWord_fields (s : State) :
    s.statusWord.getLsbD 0 = s.busy ∧ s.statusWord.getLsbD 1 = s.done ∧ s.statusWord.getLsbD 2 = s.err ∧
      s.statusWord.getLsbD 3 = s.wign ∧ s.statusWord.extractLsb' 4 4 = 0#4 ∧ s.statusWord.extractLsb' 8 4 = s.errCode ∧
      s.statusWord.extractLsb' 12 20 = 0#20 := by
  unfold State.statusWord
  refine ⟨?busy, ?done, ?err, ?wign, ?low, ?code, ?high⟩
  case busy | done | err | wign =>
    repeat rw [BitVec.getLsbD_append]
    simp
  case low | code =>
    repeat rw [BitVec.extractLsb'_append_eq_of_le (by decide)]
    exact BitVec.extractLsb'_append_eq_right
  case high =>
    repeat rw [BitVec.extractLsb'_append_eq_of_le (by decide)]
    rfl

/-- The fields of CFG (10_state.md R33). -/
theorem State.cfgWord_fields (s : State) :
    s.cfgWord.extractLsb' 0 2 = alphaCode s.alphaSel ∧ s.cfgWord.getLsbD 2 = s.legacy4 ∧
      s.cfgWord.extractLsb' 3 29 = 0#29 := by
  unfold State.cfgWord
  refine ⟨BitVec.extractLsb'_append_eq_right, ?legacy4, ?reserved⟩
  case legacy4 =>
    rw [BitVec.getLsbD_append, BitVec.getLsbD_append]
    simp
  case reserved =>
    rw [BitVec.extractLsb'_append_eq_of_le (by decide)]
    exact BitVec.extractLsb'_append_eq_left

/-- The fields of CTRL (10_state.md R35). -/
theorem State.ctrlWord_fields (s : State) : s.ctrlWord.getLsbD 0 = s.ie ∧ s.ctrlWord.extractLsb' 1 31 = 0#31 := by
  refine ⟨?_, BitVec.extractLsb'_append_eq_left⟩
  rw [State.ctrlWord, BitVec.getLsbD_append]
  simp

/-- The value 3 is no ordering's (10_state.md R33). -/
theorem alphaCode_ne_three (sel : AlphaSel) : alphaCode sel ≠ 3#2 := by
  cases sel <;> decide

/-- The ordering that each value of the field selects (10_state.md R34). -/
theorem selectAlpha_field (old : AlphaSel) (field : BitVec 2) :
    (field = 0#2 → selectAlpha old field = .lexicographic) ∧ (field = 1#2 → selectAlpha old field = .base64like) ∧
      (field = 2#2 → selectAlpha old field = .natural) ∧ (field = 3#2 → selectAlpha old field = old) := by
  refine ⟨?_, ?_, ?_, ?_⟩ <;> rintro rfl <;> rfl

/-! ### The statements on the registers -/

/-- Settles O40: the reads and writes of the four registers, and the fields of PARAM0. -/
theorem identificationRegistersAreConstant : Obligations.IdentificationRegistersAreConstant := by
  intro s rest
  obtain ⟨low, high⟩ := param0Word_fields s.build
  refine ⟨step_readReg .id, fun next => ⟨param0Word s.build, step_readReg .param0 next, low, high, fun n32 => ?_⟩,
    step_readReg .param1, step_readReg .param2, fun off w readOnly next => ?_⟩
  · rw [param0Word, n32]
    decide
  · simp only [List.mem_cons, List.not_mem_nil, or_false] at readOnly
    rcases readOnly with rfl | rfl | rfl | rfl
    · exact step_writeReg .id next
    · exact step_writeReg .param0 next
    · exact step_writeReg .param1 next
    · exact step_writeReg .param2 next

/-- Settles O42: the fields of the word, and the write and the read of STATUS. -/
theorem statusReadsItsFieldsAndClearsOnOne : Obligations.StatusReadsItsFieldsAndClearsOnOne := by
  intro s rest w
  obtain ⟨busy, done, err, wign, low, code, high⟩ := s.statusWord_fields
  exact ⟨busy, done, err, wign, low, code, high, step_writeReg .status, step_readReg .status⟩

/-- Settles O43: the write's ordering is `selectAlpha` of its field. -/
theorem cfgIsWriteAnyReadLegal : Obligations.CfgIsWriteAnyReadLegal := by
  intro s rest w
  obtain ⟨sel, legacy4, reserved⟩ := s.cfgWord_fields
  rw [sel]
  refine ⟨alphaCode_ne_three _, congrArg alphaCode, congrArg alphaCode, congrArg alphaCode, legacy4, reserved,
    fun idle next => ⟨_, step_writeCfg_idle idle next, selectAlpha_field s.alphaSel _⟩⟩

/-- Settles O44: the two cases of a CTRL write. -/
theorem ctrlWritesIeOrResets : Obligations.CtrlWritesIeOrResets := by
  intro s rest w
  obtain ⟨ie, reserved⟩ := s.ctrlWord_fields
  refine ⟨ie, reserved, fun next => ⟨fun srst => step_writeCtrl_ie srst next, fun srst => ?_⟩⟩
  rw [← wordOfLanes_lanesOfWord w] at srst
  exact ⟨_, step_writeCtrl_srst rfl srst next, (State.softReset_registersReset _).respond .ack, rfl⟩

/-- Settles O51: an unlisted byte reads as the free value of its epoch, and a power-on counts the epoch up. -/
theorem powerOnResetsRegistersAndFreesTheBuffers : Obligations.PowerOnResetsRegistersAndFreesTheBuffers := by
  refine ⟨⟨State.reset_registersReset, rfl, rfl, fun i => ⟨rfl, rfl⟩⟩, fun s rest next => ?_⟩
  exact ⟨_, step_powerOn next, State.powerOnReset_registersReset _, rfl, rfl, rfl, rfl, Nat.succ_ne_self s.epoch,
    fun i => ⟨rfl, rfl⟩⟩

/-- Settles O55: the reference build is legal, the buffers are empty and the record is clean. -/
theorem resetStateMeetsTheInvariant : Obligations.ResetStateMeetsTheInvariant where
  build_wf := by decide
  ibuf_wf := Memory.wf_nil _
  obuf_wf := Memory.wf_nil _
  record := .of_clean (by decide) rfl rfl rfl
  busy_done := nofun
  busy_err := nofun
  outLen_le := Nat.zero_le _

/-- Settles O59: the write, and the read behind it from the state the write leaves. -/
theorem idleInLenWriteIsStoredAndReadBack : Obligations.IdleInLenWriteIsStoredAndReadBack := by
  intro s w idle
  refine ⟨fun rest next => step_writeInLen_idle idle next, fun rest next => ?_⟩
  rw [run_succ (step_writeInLen_idle idle next), run_succ (step_readReg (rest := rest) .inLen rfl)]
  rfl

end Sys2Proof.Machine

/-! # The bus and the commit frame (20_memory.md R80 to R91)

The address map read in both directions (`allowedAccess_iff`), what each commit writes by the outcome it applies
(`outcomeOf_cases`), and the statements as short uses of them. -/

namespace Sys2Proof.Machine

/-! ### What a commit leaves alone (20_memory.md R90, 60_exceptions.md R236) -/

/-- A commit stays inside its frame, whatever it applies. -/
theorem State.commit_frame (s : State) (o : CmdOutcome) : CommitFrame s (s.commit o) := by
  rcases o with ⟨k, info⟩ | _ | out | v
  case error => exact (s.commit_error k info).frame
  case ok.nothing => exact ⟨rfl, rfl, rfl, rfl, rfl, rfl, rfl, fun _ => rfl, rfl, rfl, rfl⟩
  case ok.output => exact (s.commit_output out).frame
  case ok.scalar => exact (s.commit_scalar v).frame

/-- What each command can answer: an error, or the one kind of effect that is its own (60_exceptions.md R236). -/
inductive OutcomeCases (i : Instr) (o : CmdOutcome) : Prop where
  | error (e : ErrKind × Nat) (eq : o = .error e)
  | nothing (command : i = .nop) (eq : o = .ok .nothing)
  | output (command : i = .enc ∨ i = .dec) (out : List Byte) (eq : o = .ok (.output out))
  | scalar (command : ¬ (i = .nop ∨ i = .enc ∨ i = .dec)) (v : Nat) (eq : o = .ok (.scalar v))

/-- A lookup answers a scalar or an error (40_tables.md R154 to R157). -/
theorem lookupOutcome_cases {i : Instr} (command : ¬ (i = .nop ∨ i = .enc ∨ i = .dec)) (entry : Option Nat)
    (k : ErrKind) : OutcomeCases i (lookupOutcome entry k) := by
  cases entry with
  | none => exact .error _ rfl
  | some v => exact .scalar command v rfl

/-- ENC answers a text or an error (41_encode.md R170, R171). -/
theorem encOutcome_cases (s : State) : OutcomeCases .enc (encOutcome s) := by
  unfold encOutcome
  split
  · exact .error _ rfl
  · split
    · exact .error _ rfl
    · exact .output (.inl rfl) _ rfl

/-- DEC answers bytes or an error (42_decode.md R190). -/
theorem decOutcome_cases (s : State) : OutcomeCases .dec (decOutcome s) := by
  unfold decOutcome
  split
  · exact .error _ rfl
  · split
    · exact .error _ rfl
    · exact .output (.inr rfl) _ rfl

theorem outcomeOf_cases (s : State) (i : Instr) : OutcomeCases i (outcomeOf s i) := by
  cases i with
  | nop => exact .nothing rfl rfl
  | enc => exact encOutcome_cases s
  | dec => exact decOutcome_cases s
  | lutd n => exact lookupOutcome_cases (by simp) _ _
  | lutb d => exact lookupOutcome_cases (by simp) _ _
  | s2d c =>
    rw [outcomeOf]
    split
    · exact .error _ rfl
    · exact lookupOutcome_cases (by simp) _ _
  | d2s k => exact lookupOutcome_cases (by simp) _ _

/-- Settles O8: every meaning is a commit, and what it writes goes by what the command can answer. -/
theorem everyCommandCommitsInsideItsFrame : Obligations.EveryCommandCommitsInsideItsFrame := by
  intro i s
  obtain ⟨busy, done, -⟩ := s.commit_flags (outcomeOf s i)
  refine ⟨_, exec_eq_commit i s, s.commit_frame _, busy, done, ?_⟩
  cases outcomeOf_cases s i with
  | error e eq =>
    have raised := s.commit_error e.1 e.2
    rw [eq]
    exact ⟨fun _ _ => raised.obuf, by simp [raised.err], by simp [raised.err]⟩
  | nothing _ eq =>
    rw [eq]
    exact ⟨fun _ _ _ => rfl, fun _ _ _ => rfl, fun _ _ => rfl⟩
  | output command out eq =>
    have wrote := s.commit_output out
    rw [eq]
    exact ⟨fun enc dec => (command.elim enc dec).elim, fun enc dec => (command.elim enc dec).elim,
      fun _ _ => wrote.result⟩
  | scalar command v eq =>
    have wrote := s.commit_scalar v
    rw [eq]
    exact ⟨fun _ _ => wrote.obuf, fun _ _ _ => wrote.outLen, fun moves => (command moves).elim⟩

/-! ### The address map (20_memory.md R80 to R83, R86) -/

section AddressMap

variable {b : Build} {off width i : Nat}

/-- An address outside the window has no offset in it (20_memory.md R80, R83). -/
theorem windowOffset_eq_none {addr : Nat} :
    windowOffset b addr = none ↔ ¬ (b.base ≤ addr ∧ addr < b.base + windowBytes) := by
  simp [windowOffset]

/-- Every aligned offset of the register region is a register's (20_memory.md R81). -/
theorem exists_regOffset_eq (mapped : off < 0x30) (aligned : off % 4 = 0) : ∃ r, regOffset r = off := by
  have every : ∀ j < 12, ∃ r ∈ allRegs, regOffset r = 4 * j := by decide
  obtain ⟨r, -, eq⟩ := every (off / 4) (by omega)
  exact ⟨r, by omega⟩

/-- A register's offset is aligned and in the register region (20_memory.md R81). -/
theorem regOffset_mapped (r : Reg) : regOffset r < 0x30 ∧ regOffset r % 4 = 0 := by
  cases r <;> decide

/-- Where an access of OBUF lands, from the access (20_memory.md R82, R86). -/
theorem target_obuf (wf : b.WellFormed) (access : BufferAccess b.obufBytes i width) :
    target b (obufOffset + i) width = some (.obuf i) ∧ obufOffset + i < windowBytes := by
  obtain ⟨-, -, ⟨-, obufLe⟩, -⟩ := wf
  have ⟨widths, _, fits⟩ := access
  have above : ¬ obufOffset + i < ibufOffset := by simp only [ibufOffset, obufOffset]; omega
  refine ⟨?_, by simp only [obufOffset, windowBytes]; omega⟩
  rw [target, if_neg above, if_neg (by omega), Nat.add_sub_cancel_left, if_pos ((bufferAllows_iff _ _ _).2 access)]

/-- An access that lands in OBUF, from where it lands (20_memory.md R82, R86). -/
theorem target_eq_obuf (lands : target b off width = some (.obuf i)) :
    off = obufOffset + i ∧ BufferAccess b.obufBytes i width := by
  unfold target at lands
  split at lands
  · split at lands
    · cases hr : regAt off <;> simp [hr] at lands
    · simp at lands
  · split at lands <;> split at lands <;> simp at lands
    subst lands
    exact ⟨by omega, (bufferAllows_iff _ _ _).1 ‹_›⟩

/-- The allowed accesses are those that land (20_memory.md R81, R82, R86). -/
theorem allowedAccess_iff (wf : b.WellFormed) : AllowedAccess b off width ↔ ∃ tg, target b off width = some tg := by
  constructor
  · rintro (⟨mapped, aligned, rfl⟩ | ⟨i, rfl, access⟩ | ⟨i, rfl, access⟩)
    · obtain ⟨r, rfl⟩ := exists_regOffset_eq mapped aligned
      exact ⟨_, target_reg b r⟩
    · exact ⟨_, (target_ibuf wf access).1⟩
    · exact ⟨_, (target_obuf wf access).1⟩
  · rintro ⟨r | i | i, lands⟩
    · obtain ⟨rfl, rfl⟩ := target_eq_reg lands
      exact .inl ⟨(regOffset_mapped r).1, (regOffset_mapped r).2, rfl⟩
    · exact .inr (.inl ⟨i, (target_eq_ibuf lands).1, bufferAccess_of_target_ibuf lands⟩)
    · exact .inr (.inr ⟨i, target_eq_obuf lands⟩)

end AddressMap

/-! ### Which accesses get a bus error, and which stop the machine -/

/-- An access of the window that lands nowhere gets the bus error and changes nothing else (20_memory.md R83, R86). -/
theorem step_busError {s : State} {a : Access} {rest : List Event} {off : Nat} (next : s.schedule = .host a :: rest)
    (addr : a.addr = s.build.base + off) (inside : off < windowBytes) (nowhere : target s.build off a.width = none) :
    step s = .next (({ s with schedule := rest } : State).respond .busError) := by
  rw [step_host next, hostAccess, addr]
  simp only [windowOffset_add s.build inside]
  cases a <;> simp only [Access.width] at nowhere
  · simp only [State.busRead, nowhere]
  · simp only [State.busWrite, nowhere]

/-- Settles O45: an access that is not allowed lands nowhere, and one that lands answers data or an acknowledgement. -/
theorem onlyAllowedAccessesAvoidTheBusError : Obligations.OnlyAllowedAccessesAvoidTheBusError := by
  intro s a off rest wf inside addr next
  rw [allowedAccess_iff wf]
  refine ⟨fun refused => ?_, fun ⟨tg, lands⟩ => ?_⟩
  · exact step_busError next addr inside (Option.eq_none_iff_forall_ne_some.2 fun tg lands => refused ⟨tg, lands⟩)
  · cases a with
    | read _ width =>
      obtain rfl := addr
      exact ⟨_, step_read next inside lands, nofun, fun _ _ _ => rfl⟩
    | write _ lanes =>
      obtain rfl := addr
      exact ⟨_, step_write next inside lands, nofun, nofun⟩

/-- The core's turn never stops the machine (60_exceptions.md R236). -/
theorem coreTurn_next (s : State) : ∃ t, coreTurn s = .next t := by
  cases busy : s.busy with
  | false => exact ⟨s, by simp [coreTurn, busy]⟩
  | true =>
    obtain ⟨o, eq⟩ := coreTurn_busy busy
    exact ⟨_, eq⟩

/-- Settles O58, by the next event: the core's turn and a reset always answer a next state, and a host access does when
its address is in the window. -/
theorem onlyPlatformAddressesStopTheMachine : Obligations.OnlyPlatformAddressesStopTheMachine := by
  intro s
  refine ⟨fun ⟨a, rest, next, outside⟩ => ?_, fun inWindow => ?_⟩
  · rw [step_host next, hostAccess]
    simp only [outside]
  · cases next : s.schedule with
    | nil => exact step_nil next ▸ coreTurn_next s
    | cons e rest =>
      cases e with
      | core => exact step_core next ▸ coreTurn_next _
      | powerOn => exact ⟨_, step_powerOn next⟩
      | host a =>
        rw [step_host next]
        rcases hostAccess_cases a { s with schedule := rest } with
          ⟨outside, -⟩ | ⟨off, -, ⟨_, width, -, eq⟩ | ⟨_, lanes, -, eq⟩⟩
        · exact absurd (inWindow a rest next) (windowOffset_eq_none.1 outside)
        · exact ⟨_, eq⟩
        · exact ⟨_, eq⟩

/-! ### Register reads, and writes of what is read-only -/

/-- Settles O41: the eight rows are what `readReg` answers at `regOffset`. -/
theorem registerReadsReturnTheRegister : Obligations.RegisterReadsReturnTheRegister := by
  intro s rest off w listed next
  have readable : (off, w) ∈ ([.cfg, .ctrl, .status, .cmd, .inLen, .outLen, .result, .errInfo] : List Reg).map
      fun r => (regOffset r, s.readReg r) := listed
  obtain ⟨r, -, row⟩ := List.mem_map.1 readable
  cases row
  exact step_readReg r next

/-- The registers that no host write changes (20_memory.md R87). -/
def readOnlyRegs : List Reg := [.id, .param0, .param1, .param2, .outLen, .result, .errInfo]

theorem State.writeReg_readOnly (s : State) {r : Reg} (readOnly : r ∈ readOnlyRegs) (w : Word) :
    s.writeReg r w = s := by
  simp only [readOnlyRegs, List.mem_cons, List.not_mem_nil, or_false] at readOnly
  rcases readOnly with rfl | rfl | rfl | rfl | rfl | rfl | rfl <;> rfl

/-- Settles O48: OBUF and the read-only registers are the targets whose write is the identity. -/
theorem readOnlyTargetsIgnoreWrites : Obligations.ReadOnlyTargetsIgnoreWrites := by
  intro s rest wf
  refine ⟨fun i lanes access next => ?_, fun off w listed next => ?_⟩
  · obtain ⟨lands, inside⟩ := target_obuf wf access
    exact step_write next inside lands
  · have listed : off ∈ readOnlyRegs.map regOffset := listed
    obtain ⟨r, readOnly, rfl⟩ := List.mem_map.1 listed
    rw [step_writeReg r next, State.writeReg_readOnly _ readOnly]
    rfl

/-! ### Lanes (20_memory.md R84) -/

theorem lanesOfWord_getElem? (w : Word) {k : Nat} (h : k < 4) : (lanesOfWord w)[k]? = some (lane w k) := by
  interval_cases k <;> rfl

/-- The lanes of a word gathered from four bytes are those bytes, the least significant first: at bit j of lane k the
other three bytes are shifted out or lie above their bit 7. -/
theorem lanesOfWord_gather (x0 x1 x2 x3 : Byte) :
    lanesOfWord (x0.setWidth 32 ||| x1.setWidth 32 <<< 8 ||| x2.setWidth 32 <<< 16 ||| x3.setWidth 32 <<< 24) =
      [x0, x1, x2, x3] := by
  simp only [lanesOfWord, lane, List.cons.injEq, and_true]
  refine ⟨?_, ?_, ?_, ?_⟩
  all_goals
    ext j hj
    grind

/-- The word access number `j` of a buffer that holds its four bytes is allowed (20_memory.md R86). -/
theorem bufferAccess_word {size j : Nat} (fits : 4 * j + 4 ≤ size) : BufferAccess size (4 * j) 4 :=
  ⟨.inr (.inr rfl), Nat.mul_mod_right 4 j, fits⟩

section BufferReads

variable {s : State} {rest : List Event} {i width : Nat}

/-- An allowed read of IBUF, whatever BUSY is (20_memory.md R84, R89). -/
theorem step_readIbuf (wf : s.build.WellFormed) (access : BufferAccess s.build.ibufBytes i width)
    (next : s.schedule = .host (.read (s.build.base + (ibufOffset + i)) width) :: rest) :
    step s = .next { s with schedule := rest, response := .data (s.readTarget width (.ibuf i)) } := by
  obtain ⟨lands, inside⟩ := target_ibuf wf access
  exact step_read next inside lands

/-- An allowed read of OBUF, whatever BUSY is (20_memory.md R84, R89). -/
theorem step_readObuf (wf : s.build.WellFormed) (access : BufferAccess s.build.obufBytes i width)
    (next : s.schedule = .host (.read (s.build.base + (obufOffset + i)) width) :: rest) :
    step s = .next { s with schedule := rest, response := .data (s.readTarget width (.obuf i)) } := by
  obtain ⟨lands, inside⟩ := target_obuf wf access
  exact step_read next inside lands

end BufferReads

/-- Settles O46: the lanes of a word, and the reads of the two buffers. -/
theorem busLanesAreLittleEndian : Obligations.BusLanesAreLittleEndian := by
  refine ⟨fun w k h => ⟨lanesOfWord_getElem? w h, wordOfLanes_lanesOfWord w⟩, fun s rest i width wf => ⟨?_, ?_⟩,
    fun s rest j wf => ⟨fun fits next => ?_, fun fits next => ?_⟩⟩
  · exact fun access next => ⟨_, step_readIbuf wf access next, by simp [State.readTarget],
      fun k => s.readTarget_ibuf_getElem? i⟩
  · exact fun access next => ⟨_, step_readObuf wf access next, by simp [State.readTarget],
      fun k => s.readTarget_obuf_getElem? i⟩
  · rw [lanesOfWord_gather]
    exact step_readIbuf wf (bufferAccess_word fits) next
  · rw [lanesOfWord_gather]
    exact step_readObuf wf (bufferAccess_word fits) next

end Sys2Proof.Machine

/-! # Command words (30_encoding.md R110 to R121)

The fields of an encoded command and the command of given fields, then the one walk through the decoder's checks
(`decode_sound`). The statements are short uses of the two directions, `decode_encode` and `decode_sound`. -/

namespace Sys2Proof.Machine

/-! ### The fields of a word (30_encoding.md R111, R117) -/

@[simp] theorem opField_encode (i : Instr) : opField (encode i) = opcode i :=
  (formatC_fields _ _).1

@[simp] theorem rsvField_encode (i : Instr) : rsvField (encode i) = 0#12 :=
  (formatC_fields _ _).2.1

@[simp] theorem immField_encode (i : Instr) : immField (encode i) = immediate i :=
  (formatC_fields _ _).2.2

/-- The three fields are the whole word: one command has one word (30_encoding.md R111, R118). -/
theorem encode_eq_of_fields {w : Word} {i : Instr} (op : opField w = opcode i) (rsv : rsvField w = 0#12)
    (imm : immField w = immediate i) : encode i = w := by
  rw [encode, formatC, ← op, ← rsv, ← imm, opField, rsvField, immField,
    BitVec.extractLsb'_append_extractLsb'_eq_extractLsb' (rfl : 16 = 4 + 12),
    BitVec.extractLsb'_append_extractLsb'_eq_extractLsb' (rfl : 4 = 0 + 4)]
  exact BitVec.extractLsb'_eq_self

/-- The field IMM16[15:8] is word[31:24]. -/
theorem symbolHighField_immField (w : Word) : symbolHighField (immField w) = w.extractLsb' 24 8 := by
  ext j hj
  simp [symbolHighField, immField, show 8 + j < 16 by omega, show 16 + (8 + j) = 24 + j by omega]

/-- The operand of S2D is an 8-bit code exactly when its high byte is 0 (30_encoding.md R117). -/
theorem symbolHighField_eq_zero_iff (c : Imm16) : symbolHighField c = 0#8 ↔ c.toNat < 256 := by
  have range := c.isLt
  rw [← BitVec.toNat_inj, symbolHighField, BitVec.extractLsb'_toNat, Nat.shiftRight_eq_div_pow, BitVec.toNat_ofNat]
  omega

/-- The well-formed S2D commands are those that pass the decoder's check (30_encoding.md R117, R120). -/
theorem wellFormed_s2d_iff (c : Imm16) : (Instr.s2d c).wellFormed = true ↔ symbolHighField c = 0#8 :=
  decide_eq_true_iff.trans (symbolHighField_eq_zero_iff c).symm

/-- The illegal words by the decoder's fields (30_encoding.md R114 to R117). -/
theorem illegalBits_iff (w : Word) : IllegalBits w ↔
    7 ≤ (opField w).toNat ∨ rsvField w ≠ 0#12 ∨ ((opField w).toNat ≤ 2 ∧ immField w ≠ 0#16) ∨
      (opField w = 5#4 ∧ symbolHighField (immField w) ≠ 0#8) := by
  rw [symbolHighField_immField]
  rfl

/-! ### The decoder in both directions (30_encoding.md R118, R119) -/

/-- The decoder reads a well-formed command back from its fields. -/
theorem decode_encode {i : Instr} (wf : i.wellFormed = true) : decode (encode i) = .ok i := by
  unfold decode
  rw [opField_encode, rsvField_encode, immField_encode]
  cases i with
  | s2d c =>
    have high := (wellFormed_s2d_iff c).1 wf
    simp [opcode, immediate, high]
  | nop | enc | dec | lutd | lutb | d2s => rfl

/-- A well-formed command's word is none of the illegal ones. -/
theorem not_illegalBits_encode {i : Instr} (wf : i.wellFormed = true) : ¬ IllegalBits (encode i) := by
  rw [illegalBits_iff, opField_encode, rsvField_encode, immField_encode]
  cases i with
  | s2d c =>
    have high := (wellFormed_s2d_iff c).1 wf
    simp [opcode, immediate, high]
  | nop | enc | dec | lutd | lutb | d2s => simp [opcode, immediate]

/-- What an answer of the decoder says of the word `w`: a command is well formed and `w` is its word, and an error means
that `w` is illegal. -/
def AnswerSound (w : Word) : Except IllegalWord Instr → Prop
  | .ok i => encode i = w ∧ i.wellFormed = true
  | .error _ => IllegalBits w

/-- The answer at a command whose fields the word has. -/
theorem AnswerSound.of_fields {w : Word} {i : Instr} (op : (opField w).toNat = (opcode i).toNat)
    (rsv : rsvField w = 0#12) (imm : immField w = immediate i) (wf : i.wellFormed = true) : AnswerSound w (.ok i) :=
  ⟨encode_eq_of_fields (BitVec.eq_of_toNat_eq op) rsv imm, wf⟩

/-- The check of a command that uses no immediate (30_encoding.md R116). -/
theorem AnswerSound.of_unused_immediate {w : Word} {i : Instr} (op : (opField w).toNat = (opcode i).toNat)
    (low : (opcode i).toNat ≤ 2) (rsv : rsvField w = 0#12) (unused : immediate i = 0#16) (wf : i.wellFormed = true) :
    AnswerSound w (if immField w ≠ 0#16 then .error .immediateNotZero else .ok i) := by
  split
  next superfluous => exact (illegalBits_iff w).2 (.inr (.inr (.inl ⟨op ▸ low, superfluous⟩)))
  next zero => exact .of_fields op rsv ((not_not.1 zero).trans unused.symm) wf

/-- Every answer is sound, by the checks of R119 in their order. -/
theorem decode_sound (w : Word) : AnswerSound w (decode w) := by
  unfold decode
  split
  next reserved => exact (illegalBits_iff w).2 (.inl reserved)
  split
  next rsv => exact (illegalBits_iff w).2 (.inr (.inl rsv))
  next defined rsv =>
    rw [not_not] at rsv
    split
    next op => exact .of_unused_immediate (i := .nop) op (by decide) rsv rfl rfl
    next op => exact .of_unused_immediate (i := .enc) op (by decide) rsv rfl rfl
    next op => exact .of_unused_immediate (i := .dec) op (by decide) rsv rfl rfl
    next op => exact .of_fields op rsv rfl rfl
    next op => exact .of_fields op rsv rfl rfl
    next op =>
      split
      next high => exact (illegalBits_iff w).2 (.inr (.inr (.inr ⟨BitVec.eq_of_toNat_eq op, high⟩)))
      next code =>
        rw [not_not] at code
        exact .of_fields op rsv rfl ((wellFormed_s2d_iff _).2 code)
    next op => exact .of_fields op rsv rfl rfl
    next =>
      -- OP is below 7, and 0 to 6 have arms of their own.
      exfalso
      grind

/-- A word that decodes is the one word of its command (30_encoding.md R118). -/
theorem encode_of_decode {w : Word} {i : Instr} (eq : decode w = .ok i) : encode i = w ∧ i.wellFormed = true := by
  have sound := decode_sound w
  rwa [eq] at sound

/-- Exactly the illegal words do not decode (30_encoding.md R114 to R119). -/
theorem decode_error_iff (w : Word) : (∃ e, decode w = .error e) ↔ IllegalBits w := by
  constructor
  · rintro ⟨e, eq⟩
    have sound := decode_sound w
    rwa [eq] at sound
  · intro bits
    cases eq : decode w with
    | error e => exact ⟨e, rfl⟩
    | ok i =>
      obtain ⟨rfl, wf⟩ := encode_of_decode eq
      exact absurd bits (not_illegalBits_encode wf)

/-- The opcode table's numbering of a word, carried over the four lanes, is decoded as the word (20_memory.md R84,
30_encoding.md R110). -/
theorem decodeTableWord_toNat (w : Word) : decodeTableWord 32 w.toNat = (decode w).toOption := by
  have table : tableWord 32 w.toNat = some w := by
    rw [tableWord, Nat.mod_eq_of_lt w.isLt, if_pos w.isLt, BitVec.ofNat_toNat, BitVec.setWidth_eq]
  simp only [decodeTableWord, table, wordOfLanes_lanesOfWord]

/-! ### The commit of an illegal word (43_control.md R221) -/

/-- The core's turn with an illegal word in flight. -/
theorem step_commitIllegal {s : State} {rest : List Event} (busy : s.busy = true) (illegal : IllegalBits s.cmd)
    (turn : s.CoreTurnNext rest) :
    step s = .next (({ s with schedule := rest } : State).commit (.error (.illegalCommand, 0))) := by
  obtain ⟨e, eq⟩ := (decode_error_iff s.cmd).2 illegal
  rw [step_coreTurn turn]
  simp only [coreTurn, commitStep, busy, eq, if_true]
  rfl

/-- STATUS after an error when WIGN was 0: DONE, ERR and the code (10_state.md R36, 60_exceptions.md R236). -/
theorem RaisedBy.statusWord {s t : State} {k : ErrKind} {info : Nat} (raised : RaisedBy s t k info)
    (wign : s.wign = false) : t.statusWord = 0#20 ++ k.code ++ 0x06#8 := by
  rw [State.statusWord, raised.errCode, raised.frame.wign, wign, raised.err, raised.finished, raised.busy]
  cases k <;> rfl

/-! ### The statements on command words -/

/-- Settles O1: the encoder's fields are the command's, and the decoder reads them back. -/
theorem decodeOfEncodeIsTheCommand : Obligations.DecodeOfEncodeIsTheCommand := by
  intro i wf
  refine ⟨decode_encode wf, ?_⟩
  rw [decodeTableWord_toNat, decode_encode wf]
  rfl

/-- Settles O2: the decoder's answer at each opcode is the command of the word's fields. -/
theorem decodedWordIsTheEncodeOfItsCommand : Obligations.DecodedWordIsTheEncodeOfItsCommand :=
  fun _ _ => encode_of_decode

/-- Settles O3: each of the seven words is the encoding of its command. -/
theorem specWordsDecodeToTheirCommands : Obligations.SpecWordsDecodeToTheirCommands :=
  ⟨decode_encode (i := .nop) rfl, decode_encode (i := .enc) rfl, decode_encode (i := .dec) rfl,
    decode_encode (i := .lutd 32#16) rfl, decode_encode (i := .lutb 43#16) rfl, decode_encode (i := .s2d 0x7A#16) rfl,
    decode_encode (i := .d2s 61#16) rfl⟩

/-- Settles O4: the decoder's errors are the illegal words, the bus accepts or ignores them like every word, and their
commit is the error commit. -/
theorem illegalWordsAreAcceptedAndCommitIllegalCommand :
    Obligations.IllegalWordsAreAcceptedAndCommitIllegalCommand := by
  refine fun w => ⟨decode_error_iff w, fun illegal s rest => ⟨fun next => ⟨fun idle => ?accept, fun busy => ?ignored⟩,
    fun busy cmd turn => ?commit⟩⟩
  case accept => exact step_writeCmd_idle idle next
  case ignored => exact step_writeReg_busy (r := .cmd) (by simp) busy next
  case commit =>
    have raised := State.commit_error { s with schedule := rest } .illegalCommand 0
    exact ⟨_, step_commitIllegal busy (cmd ▸ illegal) turn, raised, raised.statusWord⟩

end Sys2Proof.Machine

/-! # The tables (40_tables.md R141 to R158)

The size table read in both directions (`digits_lt_succ`, `bytesOf_eq_some_iff`), the alphabet ROMs as lists of
characters (`alphabetChars_codes`) and as inverse maps (`romSym_eq_some_iff`), the scalar commands as lookups in them, and
the order that the radix converter keeps (`encodeText_lt_iff`). -/

namespace Sys2Proof.Machine

/-! ### The size table in both directions (40_tables.md R141 to R146) -/

/-- A digit holds less than a byte, so one more byte needs one more digit or more (40_tables.md R143). -/
theorem digits_lt_succ (n : Nat) : digits n < digits (n + 1) := by
  have holds := (digits_spec (n + 1)).1
  cases hd : digits (n + 1) with
  | zero =>
    rw [hd, pow_zero] at holds
    exact absurd holds (Nat.not_le.2 (Nat.one_lt_two_pow (by omega)))
  | succ d =>
    have fits : 2 ^ (8 * n) ≤ 62 ^ d := by
      rw [hd, mul_add, pow_add, pow_succ 62] at holds
      omega
    exact Nat.lt_succ_of_le ((digits_spec n).2 d fits)

theorem digits_strictMono : StrictMono digits := strictMono_nat_of_lt_succ digits_lt_succ

/-- BYTES_OF finds the one table length whose groups have d digits (40_tables.md R144). -/
theorem bytesOf_eq_some_iff {n d b : Nat} : bytesOf n d = some b ↔ 1 ≤ b ∧ b ≤ n ∧ digits b = d := by
  rw [bytesOf, List.find?_range'_eq_some, List.mem_range'_1, beq_iff_eq]
  constructor
  · rintro ⟨eq, ⟨pos, le⟩, -⟩
    exact ⟨pos, by omega, eq⟩
  · rintro ⟨pos, le, rfl⟩
    have earlier : ∀ j, 1 ≤ j → j < b → (!(digits j == digits b)) = true := fun j _ less => by
      simpa using (digits_strictMono less).ne
    exact ⟨rfl, ⟨pos, by omega⟩, earlier⟩

/-- BYTES_OF answers nothing exactly for the digit counts outside the table (40_tables.md R144). -/
theorem bytesOf_eq_none_iff {n d : Nat} : bytesOf n d = none ↔ ∀ b, 1 ≤ b → b ≤ n → digits b ≠ d := by
  simp only [Option.eq_none_iff_forall_ne_some, ne_eq, bytesOf_eq_some_iff, not_and]

/-- The digit counts 0, 1 and 4, below and between the first entries of the table (40_tables.md R145). -/
theorem digits_ne_of_gap {b d : Nat} (pos : 1 ≤ b) (gap : d ≤ 1 ∨ d = 4) : digits b ≠ d := by
  have one : digits 1 = 2 := rfl
  have two : digits 2 = 3 := rfl
  have three : digits 3 = 5 := rfl
  have first := digits_mono pos
  rcases Nat.lt_or_ge b 3 with small | large
  · have second := digits_mono (show b ≤ 2 by omega)
    omega
  · have third := digits_mono large
    omega

/-- No group is longer than D_MAX (00_scope.md R9). -/
theorem bytesOf_eq_none_of_dMax_lt {n d : Nat} (above : dMax n < d) : bytesOf n d = none :=
  bytesOf_eq_none_iff.2 fun _ _ le => ((digits_mono le).trans_lt above).ne

theorem romDigits_eq_none_iff {n b : Nat} : romDigits n b = none ↔ b = 0 ∨ n < b := by
  rw [romDigits]
  split <;> simp <;> omega

/-- A chunk's value is below 2^(8n) (40_tables.md R146). -/
theorem beValue_lt (c : List Byte) : beValue c < 2 ^ (8 * c.length) := by
  have bytes : ∀ d ∈ c.map BitVec.toNat, d < 256 := List.forall_mem_map.2 fun x _ => x.isLt
  have bound := radixValue_lt _ bytes
  rwa [List.length_map, show (256 : Nat) = 2 ^ 8 by rfl, ← pow_mul] at bound

/-- A chunk's value fits its group (40_tables.md R146). -/
theorem beValue_lt_pow_digits (c : List Byte) : beValue c < 62 ^ digits c.length :=
  (beValue_lt c).trans_le (digits_spec c.length).1

/-- 2^k - 1 is k ones, so it has k bits (40_tables.md R142). -/
theorem log2_two_pow_sub_one {k : Nat} (pos : 1 ≤ k) : (2 ^ k - 1).log2 + 1 = k := by
  obtain ⟨m, rfl⟩ := Nat.exists_eq_add_of_le' pos
  have top : 1 ≤ 2 ^ m := Nat.one_le_two_pow
  have double : 2 ^ (m + 1) = 2 * 2 ^ m := pow_succ' 2 m
  rw [(Nat.log2_eq_iff (k := m) (by omega)).2 ⟨by omega, by omega⟩]

/-! ### The alphabets (40_tables.md R147 to R153) -/

/-- ROM_ALPHA spells the ordering of each alphabet, character by character (40_tables.md R147, R153). -/
theorem alphabetChars_codes (sel : AlphaSel) :
    (alphabetChars sel).map Char.toNat = (List.range 62).map (fun k => (romAlpha sel k).toNat) := by
  cases sel <;> rfl

theorem codesOf_alphabetChars (sel : AlphaSel) :
    codesOf (alphabetChars sel) = (List.range 62).map (romAlpha sel) := calc
  codesOf (alphabetChars sel) = ((alphabetChars sel).map Char.toNat).map (BitVec.ofNat 8) := by simp [codesOf]
  _ = (List.range 62).map (romAlpha sel) := by simp [alphabetChars_codes]

/-- The character at place k is the one whose code ROM_ALPHA holds there (40_tables.md R147). -/
theorem alphabetChars_getElem?_toNat (sel : AlphaSel) (k : Nat) :
    ((alphabetChars sel)[k]?).map Char.toNat = alphaEntry sel k := by
  rw [← List.getElem?_map, alphabetChars_codes, List.getElem?_map, alphaEntry]
  split
  · rw [List.getElem?_range (by omega), Option.map_some]
  · rw [List.getElem?_eq_none (by rw [List.length_range]; omega), Option.map_none]

theorem alphaEntry_eq_some_iff {sel : AlphaSel} {k v : Nat} :
    alphaEntry sel k = some v ↔ k ≤ 61 ∧ (romAlpha sel k).toNat = v := by
  simp [alphaEntry]

/-- ROM_SYM finds the digit of every symbol that ROM_ALPHA holds (40_tables.md R151). -/
theorem romSym_romAlpha (sel : AlphaSel) {k : Nat} (le : k ≤ 61) : romSym sel (romAlpha sel k) = some k := by
  have every : ∀ j < 62, romSym sel (romAlpha sel j) = some j := by cases sel <;> decide
  exact every k (by omega)

/-- The three runs of an ordering: the first digit, the first code and the number of symbols of '0'..'9', of 'A'..'Z'
and of 'a'..'z' (40_tables.md R151). -/
def alphaRuns (sel : AlphaSel) : List (Nat × Nat × Nat) :=
  [((alphaBases sel).1, 0x30, 10), ((alphaBases sel).2.1, 0x41, 26), ((alphaBases sel).2.2, 0x61, 26)]

/-- Along a run digits and codes rise together (40_tables.md R151). -/
theorem romAlpha_run (sel : AlphaSel) : ∀ run ∈ alphaRuns sel, ∀ j < run.2.2,
    run.1 + j ≤ 61 ∧ romAlpha sel (run.1 + j) = BitVec.ofNat 8 (run.2.1 + j) := by
  cases sel <;> decide

/-- A code with a digit lies in one of the runs, as far into it as its digit (40_tables.md R151). -/
theorem romSym_run {sel : AlphaSel} {c : Byte} {k : Nat} (found : romSym sel c = some k) :
    ∃ run ∈ alphaRuns sel, ∃ j < run.2.2, c = BitVec.ofNat 8 (run.2.1 + j) ∧ k = run.1 + j := by
  have inRun (digit first count : Nat) (run : (digit, first, count) ∈ alphaRuns sel)
      (range : first ≤ c.toNat ∧ c.toNat < first + count) (eq : some (c.toNat - first + digit) = some k) :
      ∃ run ∈ alphaRuns sel, ∃ j < run.2.2, c = BitVec.ofNat 8 (run.2.1 + j) ∧ k = run.1 + j := by
    obtain ⟨le, lt⟩ := range
    refine ⟨_, run, c.toNat - first, Nat.sub_lt_left_of_lt_add le lt, ?_, ?_⟩
    · rw [Nat.add_sub_cancel' le, BitVec.ofNat_toNat, BitVec.setWidth_eq]
    · rw [← Option.some.inj eq, Nat.add_comm]
  unfold romSym at found
  split at found
  next range => exact inRun _ 0x30 10 (by simp [alphaRuns]) (by omega) found
  next =>
    split at found
    next range => exact inRun _ 0x41 26 (by simp [alphaRuns]) (by omega) found
    next =>
      split at found
      next range => exact inRun _ 0x61 26 (by simp [alphaRuns]) (by omega) found
      next => cases found

/-- ROM_SYM is the inverse of ROM_ALPHA (40_tables.md R151). -/
theorem romSym_eq_some_iff {sel : AlphaSel} {c : Byte} {k : Nat} :
    romSym sel c = some k ↔ k ≤ 61 ∧ romAlpha sel k = c := by
  constructor
  · intro found
    obtain ⟨run, hrun, j, hj, rfl, rfl⟩ := romSym_run found
    exact romAlpha_run sel run hrun j hj
  · rintro ⟨le, rfl⟩
    exact romSym_romAlpha sel le

/-- The valid codes are the alphanumeric ones, whatever the ordering (40_tables.md R152). -/
theorem romSym_isSome_iff (sel : AlphaSel) (c : Byte) : (romSym sel c).isSome = true ↔
    (0x30 ≤ c.toNat ∧ c.toNat ≤ 0x39) ∨ (0x41 ≤ c.toNat ∧ c.toNat ≤ 0x5A) ∨ (0x61 ≤ c.toNat ∧ c.toNat ≤ 0x7A) := by
  unfold romSym
  split
  · simp [*]
  · split
    · simp [*]
    · split <;> simp [*]

/-- Different digits have different symbols (40_tables.md R152). -/
theorem romAlpha_injective {sel : AlphaSel} {j k : Nat} (hj : j ≤ 61) (hk : k ≤ 61)
    (eq : romAlpha sel j = romAlpha sel k) : j = k :=
  Option.some.inj <| calc
    some j = romSym sel (romAlpha sel j) := (romSym_romAlpha sel hj).symm
    _ = some k := by rw [eq, romSym_romAlpha sel hk]

/-! ### The scalar commands as lookups (40_tables.md R154 to R157) -/

/-- The word of a command is `OP | (imm << 16)` (30_encoding.md R120). -/
theorem formatC_eq_or (op : BitVec 4) (imm : Imm16) : formatC op imm = op.setWidth 32 ||| imm.setWidth 32 <<< 16 := by
  have opRange : op.toNat < 2 ^ 32 := op.isLt.trans (by norm_num)
  have immRange : imm.toNat < 2 ^ 32 := imm.isLt.trans (by norm_num)
  have shifted : imm.toNat <<< 16 < 2 ^ 32 := by
    rw [Nat.shiftLeft_eq]
    omega
  apply BitVec.eq_of_toNat_eq
  rw [formatC, BitVec.toNat_append, BitVec.toNat_append, BitVec.toNat_or, BitVec.toNat_shiftLeft, BitVec.toNat_setWidth,
    BitVec.toNat_setWidth, BitVec.toNat_ofNat, Nat.zero_mod, Nat.or_zero, ← Nat.shiftLeft_add, Nat.mod_eq_of_lt opRange,
    Nat.mod_eq_of_lt immRange, Nat.mod_eq_of_lt shifted, Nat.or_comm]

/-- A command whose lookup finds an entry commits it as RESULT. -/
theorem exec_of_lookup_some {i : Instr} {s : State} {entry : Option Nat} {k : ErrKind} {v : Nat}
    (outcome : outcomeOf s i = lookupOutcome entry k) (found : entry = some v) :
    ∃ t, exec i s = .next t ∧ WroteResult s t v := by
  refine ⟨_, exec_eq_commit i s, ?_⟩
  rw [outcome, found]
  exact s.commit_scalar v

/-- A command whose lookup finds nothing raises the lookup's error. -/
theorem exec_of_lookup_none {i : Instr} {s : State} {entry : Option Nat} {k : ErrKind}
    (outcome : outcomeOf s i = lookupOutcome entry k) (missing : entry = none) :
    ∃ t, exec i s = .next t ∧ RaisedBy s t k 0 := by
  refine ⟨_, exec_eq_commit i s, ?_⟩
  rw [outcome, missing]
  exact s.commit_error k 0

/-- S2D of an 8-bit code is a lookup in ROM_SYM (40_tables.md R156). -/
theorem outcomeOf_s2d {c : Imm16} (small : c.toNat < 256) (s : State) :
    outcomeOf s (.s2d c) = lookupOutcome (romSym s.alphaSel (BitVec.ofNat 8 c.toNat)) .alphabetMismatch := by
  have low : c.extractLsb' 0 8 = BitVec.ofNat 8 c.toNat := BitVec.eq_of_toNat_eq (by simp)
  rw [outcomeOf, if_neg (not_not.2 ((symbolHighField_eq_zero_iff c).2 small)), low]

/-- The word of an S2D operand that is no 8-bit code (30_encoding.md R117, R119). -/
theorem decode_encode_s2d_large {c : Imm16} (large : 256 ≤ c.toNat) :
    decode (encode (.s2d c)) = .error .symbolHighByte := by
  have high : symbolHighField c ≠ 0#8 := fun eq => by
    have := (symbolHighField_eq_zero_iff c).1 eq
    omega
  unfold decode
  rw [opField_encode, rsvField_encode, immField_encode]
  simp [opcode, immediate, high]

/-! ### The order that the encoding keeps (40_tables.md R158) -/

/-- A map that keeps the order of the elements it meets keeps the lexicographic order of lists. -/
theorem map_lt_map_iff {α β : Type} [LT α] [LT β] {f : α → β} {P : α → Prop}
    (lt : ∀ x y, P x → P y → (f x < f y ↔ x < y)) (inj : ∀ x y, P x → P y → (f x = f y ↔ x = y)) {xs ys : List α}
    (hx : ∀ x ∈ xs, P x) (hy : ∀ y ∈ ys, P y) : xs.map f < ys.map f ↔ xs < ys := by
  induction xs generalizing ys with
  | nil => cases ys <;> simp
  | cons x xs ih =>
    cases ys with
    | nil => simp
    | cons y ys =>
      obtain ⟨px, pxs⟩ := List.forall_mem_cons.1 hx
      obtain ⟨py, pys⟩ := List.forall_mem_cons.1 hy
      rw [List.map_cons, List.map_cons, List.cons_lt_cons_iff, List.cons_lt_cons_iff, lt x y px py, inj x y px py,
        ih pxs pys]

/-- Two texts compare by their first parts, when those have the same length, and then by the rest. -/
theorem append_lt_append_iff {α : Type} [LT α] [Std.Irrefl (fun a b : α => a < b)] {xs ys xs' ys' : List α}
    (same : xs.length = ys.length) : xs ++ xs' < ys ++ ys' ↔ xs < ys ∨ xs = ys ∧ xs' < ys' := by
  induction xs generalizing ys with
  | nil =>
    obtain rfl := List.length_eq_zero_iff.1 same.symm
    simp
  | cons x xs ih =>
    cases ys with
    | nil => simp at same
    | cons y ys =>
      rw [List.cons_append, List.cons_append, List.cons_lt_cons_iff, List.cons_lt_cons_iff, List.cons.injEq,
        ih (Nat.succ.inj same)]
      tauto

/-- The first digit weighs base^k over the k digits behind it (00_scope.md R17). -/
theorem radixValue_cons (base d : Nat) (ds : List Nat) :
    radixValue base (d :: ds) = d * base ^ ds.length + radixValue base ds := by
  induction ds using List.reverseRecOn with
  | nil => simp [radixValue]
  | append_singleton ds x ih =>
    rw [← List.cons_append, radixValue_concat, radixValue_concat, ih, List.length_append, List.length_singleton,
      pow_succ]
    ring

/-- Digit sequences of one length compare as their values. -/
theorem radixValue_lt_iff {base : Nat} {ds es : List Nat} (same : ds.length = es.length) (hd : ∀ d ∈ ds, d < base)
    (he : ∀ e ∈ es, e < base) : radixValue base ds < radixValue base es ↔ ds < es := by
  induction ds generalizing es with
  | nil =>
    obtain rfl := List.length_eq_zero_iff.1 same.symm
    simp
  | cons d ds ih =>
    cases es with
    | nil => simp at same
    | cons e es =>
      obtain ⟨-, hds⟩ := List.forall_mem_cons.1 hd
      obtain ⟨-, hes⟩ := List.forall_mem_cons.1 he
      have same : ds.length = es.length := Nat.succ.inj same
      have dsLt := radixValue_lt ds hds
      have esLt := radixValue_lt es hes
      rw [List.cons_lt_cons_iff, radixValue_cons, radixValue_cons, ← ih same hds hes]
      rw [same] at dsLt ⊢
      rcases Nat.lt_trichotomy d e with less | rfl | more
      · have step := Nat.mul_le_mul_right (base ^ es.length) (Nat.succ_le_of_lt less)
        rw [Nat.succ_mul] at step
        exact iff_of_true (by omega) (.inl less)
      · simp
      · have step := Nat.mul_le_mul_right (base ^ es.length) (Nat.succ_le_of_lt more)
        rw [Nat.succ_mul] at step
        exact iff_of_false (by omega) (by omega)

/-- Byte sequences of one length compare as their big-endian values. -/
theorem beValue_lt_iff {c d : List Byte} (same : c.length = d.length) : beValue c < beValue d ↔ c < d := by
  have bytes (l : List Byte) : ∀ x ∈ l.map BitVec.toNat, x < 256 := List.forall_mem_map.2 fun x _ => x.isLt
  rw [beValue, beValue, radixValue_lt_iff (by simpa using same) (bytes c) (bytes d)]
  exact map_lt_map_iff (P := fun _ => True) (fun _ _ _ _ => BitVec.lt_def.symm) (fun _ _ _ _ => BitVec.toNat_inj)
    (fun _ _ => trivial) (fun _ _ => trivial)

/-- Base-62 sequences of one width compare as the values they spell. -/
theorem digits62_lt_iff {v w k : Nat} (hv : v < 62 ^ k) (hw : w < 62 ^ k) : digits62 v k < digits62 w k ↔ v < w := by
  have byValue := radixValue_lt_iff (by simp) (digits62_lt v k) (digits62_lt w k)
  rw [← byValue, ← val62, ← val62, val62_digits62 hv, val62_digits62 hw]

/-- Under the lexicographic alphabet symbol codes rise with the digit (40_tables.md R158). -/
theorem romAlpha_lexicographic_lt {j k : Nat} (less : j < k) (le : k ≤ 61) :
    romAlpha .lexicographic j < romAlpha .lexicographic k := by
  rw [BitVec.lt_def, romAlpha, romAlpha]
  split_ifs <;> simp only [BitVec.toNat_ofNat] <;> omega

theorem romAlpha_lexicographic_lt_iff {j k : Nat} (hj : j ≤ 61) (hk : k ≤ 61) :
    romAlpha .lexicographic j < romAlpha .lexicographic k ↔ j < k := by
  refine ⟨fun less => ?_, fun less => romAlpha_lexicographic_lt less hk⟩
  rcases Nat.lt_trichotomy j k with h | rfl | h
  · exact h
  · exact absurd less (BitVec.lt_irrefl _)
  · exact absurd less (BitVec.lt_asymm (romAlpha_lexicographic_lt h hj))

/-- Groups of chunks of one length compare as the chunks: each step of the conversion keeps the order. -/
theorem encodeChunk_lt_iff {c d : List Byte} (same : c.length = d.length) :
    encodeChunk .lexicographic c < encodeChunk .lexicographic d ↔ c < d := by
  have fits := beValue_lt_pow_digits d
  rw [← same] at fits
  rw [encodeChunk, encodeChunk, ← same, ← beValue_lt_iff same, ← digits62_lt_iff (beValue_lt_pow_digits c) fits]
  exact map_lt_map_iff (P := (· < 62)) (fun j k hj hk => romAlpha_lexicographic_lt_iff (by omega) (by omega))
    (fun j k hj hk => ⟨romAlpha_injective (by omega) (by omega), congrArg _⟩) (digits62_lt _ _) (digits62_lt _ _)

/-- Different chunks of one length have different groups: one of the two compares below the other. -/
theorem encodeChunk_eq_iff {c d : List Byte} (same : c.length = d.length) :
    encodeChunk .lexicographic c = encodeChunk .lexicographic d ↔ c = d := by
  refine ⟨fun eq => List.le_antisymm (List.not_lt.1 fun less => ?_) (List.not_lt.1 fun less => ?_), congrArg _⟩
  · exact List.lt_irrefl _ (eq ▸ (encodeChunk_lt_iff same.symm).2 less)
  · exact List.lt_irrefl _ (eq ▸ (encodeChunk_lt_iff same).2 less)

/-- The text of a non-empty input: the group of its first chunk, and the text of the rest (41_encode.md R172, R175). -/
theorem encodeText_step {n : Nat} (hn : 1 ≤ n) (sel : AlphaSel) {bytes : List Byte} (h : bytes ≠ []) :
    encodeText n sel bytes = encodeChunk sel (bytes.take n) ++ encodeText n sel (bytes.drop n) := by
  rw [encodeText, pieces_step hn h, List.flatMap_cons, encodeText]

/-- Encodings of inputs of one length compare as the inputs (40_tables.md R158). -/
theorem encodeText_lt_iff {n : Nat} (hn : 1 ≤ n) {b c : List Byte} (same : b.length = c.length) :
    encodeText n .lexicographic b < encodeText n .lexicographic c ↔ b < c := by
  induction b using pieces_induction hn generalizing c with
  | nil =>
    obtain rfl := List.length_eq_zero_iff.1 same.symm
    simp [encodeText]
  | step b hb ih =>
    have hc : c ≠ [] := List.ne_nil_of_length_pos (same ▸ List.length_pos_of_ne_nil hb)
    have sameHead : (b.take n).length = (c.take n).length := by simp [same]
    have sameRest : (b.drop n).length = (c.drop n).length := by simp [same]
    rw [encodeText_step hn _ hb, encodeText_step hn _ hc, append_lt_append_iff (by simp [same]),
      encodeChunk_lt_iff sameHead, encodeChunk_eq_iff sameHead, ih sameRest, ← append_lt_append_iff sameHead,
      List.take_append_drop, List.take_append_drop]

/-! ### The statements on the tables -/

/-- Settles O10: LUTD is a lookup in ROM_DIGITS, whose entry is the least digit count. -/
theorem lutdGivesTheLeastDigitCount : Obligations.LutdGivesTheLeastDigitCount := by
  refine fun n s => ⟨formatC_eq_or 3#4 n, fun pos le => ?entry, fun outside => ?domain⟩
  case entry =>
    obtain ⟨holds, least⟩ := digits_spec n.toNat
    obtain ⟨t, run, wrote⟩ := exec_of_lookup_some (i := .lutd n) (s := s) rfl (if_pos ⟨pos, le⟩)
    exact ⟨t, _, run, wrote, holds, least, fun full => full ▸ rfl, fun four => four ▸ rfl⟩
  case domain => exact exec_of_lookup_none rfl (romDigits_eq_none_iff.2 outside)

/-- Settles O11: LUTB is a lookup in BYTES_OF, which inverts the size table. -/
theorem lutbInvertsTheSizeTable : Obligations.LutbInvertsTheSizeTable := by
  intro d s
  have found (b : Nat) (pos : 1 ≤ b) (le : b ≤ s.build.n) (eq : digits b = d.toNat) :
      ∃ t, exec (.lutb d) s = .next t ∧ WroteResult s t b :=
    exec_of_lookup_some rfl (bytesOf_eq_some_iff.2 ⟨pos, le, eq⟩)
  have missing (noEntry : bytesOf s.build.n d.toNat = none) :
      ∃ t, exec (.lutb d) s = .next t ∧ RaisedBy s t .framing 0 :=
    exec_of_lookup_none rfl noEntry
  refine ⟨formatC_eq_or 4#4 d, found, fun h => missing (bytesOf_eq_none_iff.2 h), ?_,
    fun pos full => found _ pos le_rfl full.symm, fun le eq => found 32 (by norm_num) le eq.symm⟩
  rintro (small | four | above)
  · exact missing (bytesOf_eq_none_iff.2 fun b pos _ => digits_ne_of_gap pos (.inl small))
  · exact missing (bytesOf_eq_none_iff.2 fun b pos _ => digits_ne_of_gap pos (.inr four))
  · exact missing (bytesOf_eq_none_of_dMax_lt above)

/-- Settles O12: S2D is a lookup in ROM_SYM, which inverts the list of characters, and the word of a longer operand is
illegal. -/
theorem s2dLooksUpTheDigit : Obligations.S2dLooksUpTheDigit := by
  refine fun c s => ⟨formatC_eq_or 5#4 c, fun k ch place code => ?found, fun small foreign => ?mismatch,
    fun large => ⟨decode_encode_s2d_large large, fun rest busy cmd turn => ?illegal⟩⟩
  case found =>
    have entry := alphabetChars_getElem?_toNat s.alphaSel k
    rw [place, Option.map_some, eq_comm, alphaEntry_eq_some_iff, code] at entry
    obtain ⟨le, code⟩ := entry
    have symbol : romAlpha s.alphaSel k = BitVec.ofNat 8 c.toNat := by
      rw [← code, BitVec.ofNat_toNat, BitVec.setWidth_eq]
    have small : c.toNat < 256 := code ▸ (romAlpha s.alphaSel k).isLt
    exact exec_of_lookup_some (outcomeOf_s2d small s) (romSym_eq_some_iff.2 ⟨le, symbol⟩)
  case mismatch =>
    refine exec_of_lookup_none (outcomeOf_s2d small s) (Option.eq_none_iff_forall_ne_some.2 fun k found => ?_)
    obtain ⟨le, symbol⟩ := romSym_eq_some_iff.1 found
    have code : (romAlpha s.alphaSel k).toNat = c.toNat := by
      rw [symbol, BitVec.toNat_ofNat, Nat.mod_eq_of_lt small]
    have entry := alphabetChars_getElem?_toNat s.alphaSel k
    rw [alphaEntry_eq_some_iff.2 ⟨le, code⟩, Option.map_eq_some_iff] at entry
    obtain ⟨ch, place, eq⟩ := entry
    exact foreign ch (List.mem_of_getElem? place) eq
  case illegal =>
    have illegal := (decode_error_iff s.cmd).1 ⟨_, cmd ▸ decode_encode_s2d_large large⟩
    exact ⟨_, step_commitIllegal busy illegal turn, State.commit_error _ _ _⟩

/-- Settles O13: D2S is a lookup in ROM_ALPHA, which holds the codes of the characters in order. -/
theorem d2sLooksUpTheSymbol : Obligations.D2sLooksUpTheSymbol := by
  refine fun k s => ⟨formatC_eq_or 6#4 k, fun le => ?symbol, fun large => ?domain⟩
  case symbol =>
    have entry := alphabetChars_getElem?_toNat s.alphaSel k.toNat
    rw [alphaEntry_eq_some_iff.2 ⟨le, rfl⟩, Option.map_eq_some_iff] at entry
    obtain ⟨ch, place, code⟩ := entry
    obtain ⟨t, run, wrote⟩ :=
      exec_of_lookup_some (i := .d2s k) (s := s) rfl (alphaEntry_eq_some_iff.2 ⟨le, code.symm⟩)
    exact ⟨t, ch, place, run, wrote⟩
  case domain => exact exec_of_lookup_none rfl (if_neg (by omega))

/-- Settles O22: under sel 0 the text keeps the order of its input, and the order is lost under sel 1, under sel 2 and
between lengths by the evaluated pairs of inputs. -/
theorem lexicographicEncodingKeepsOrder : Obligations.LexicographicEncodingKeepsOrder :=
  ⟨fun k less => romAlpha_lexicographic_lt (Nat.lt_succ_self k) less, fun _ _ _ hn same => encodeText_lt_iff hn same,
    by decide⟩

/-- Settles O36: each byte adds a digit, so the table is strictly increasing. -/
theorem digitsIsStrictlyIncreasing : Obligations.DigitsIsStrictlyIncreasing :=
  ⟨digits_lt_succ, fun _ _ eq => digits_strictMono.injective eq⟩

/-- Settles O37: BYTES_OF in both directions, and the two places that look it up. -/
theorem bytesOfInvertsDigits : Obligations.BytesOfInvertsDigits := by
  refine ⟨fun n d => ⟨fun b => bytesOf_eq_some_iff, bytesOf_eq_none_iff⟩,
    fun d s missing => exec_of_lookup_none rfl missing, fun n p sel g missing => ?_⟩
  rcases decodeGroup_cases n sel p g with ⟨-, framing⟩ | ⟨b, found, -⟩
  · exact framing
  · exact absurd (missing.symm.trans found) (Option.some_ne_none b).symm

/-- Settles O38: the value of a chunk is below 62^DIGITS. -/
theorem paddingAlwaysFits : Obligations.PaddingAlwaysFits := fun sel chunk =>
  ⟨beValue_lt chunk, (digits_spec chunk.length).1,
    (Nat.digits_length_le_iff (by norm_num) _).2 (beValue_lt_pow_digits chunk), encodeChunk_length sel chunk⟩

/-- Settles O39: the ROMs against the lists of characters, and against each other. -/
theorem alphabetRomsAreInverseBijections : Obligations.AlphabetRomsAreInverseBijections :=
  ⟨fun sel => (codesOf_alphabetChars sel).symm, rfl, rfl, rfl, fun _ _ _ => romSym_eq_some_iff, romSym_isSome_iff⟩

/-- Settles O35: the listed entries are evaluated, and above D_MAX = 43 the table has none. -/
theorem sizeTablesHoldTheListedValues : Obligations.SizeTablesHoldTheListedValues := by
  have widths : (List.range' 1 32).map (fun n => (2 ^ (8 * n) - 1).log2 + 1) =
      (List.range' 1 32).map (fun n => 8 * n) :=
    List.map_congr_left fun n hn => log2_two_pow_sub_one (by have := (List.mem_range'_1.1 hn).1; omega)
  exact ⟨rfl, widths, rfl, rfl, fun d above => bytesOf_eq_none_of_dMax_lt above⟩

end Sys2Proof.Machine

/-! # Encoding (41_encode.md R170 to R179)

How an input is cut into chunks (`pieces_getElem?`, `pieces_append`), what the group of a chunk holds
(`groupValue_encodeChunk`, `encodeChunk_getElem?_padding`), that ENC_LEN rises with every byte (`encLen_lt`), the
outcomes of ENC by its two length checks (`encOutcome_text`), and the statements as short uses of them. -/

namespace Sys2Proof.Machine

/-! ### The cut into chunks (41_encode.md R172) -/

/-- A sequence is cut into ceil(L / k) pieces. -/
theorem pieces_length {α : Type} {k : Nat} (hk : 0 < k) (xs : List α) :
    (pieces k xs).length = (xs.length + k - 1) / k := by
  induction xs using pieces_induction hk with
  | nil => simp [Nat.div_eq_of_lt (Nat.sub_lt hk Nat.one_pos)]
  | step xs hx ih =>
    have pos := List.length_pos_of_ne_nil hx
    rw [pieces_step hk hx, List.length_cons, ih, List.length_drop,
      show xs.length + k - 1 = xs.length - 1 + k by omega, Nat.add_div_right _ hk]
    rcases Nat.lt_or_ge xs.length k with short | long
    · rw [Nat.div_eq_of_lt (by omega), Nat.div_eq_of_lt (by omega)]
    · rw [show xs.length - k + k - 1 = xs.length - 1 by omega]

/-- A piece starts at every multiple of k below the length. -/
theorem lt_pieces_length_iff {α : Type} {k : Nat} (hk : 0 < k) (xs : List α) (i : Nat) :
    i < (pieces k xs).length ↔ i * k < xs.length := by
  rw [pieces_length hk, ← Nat.succ_le_iff, Nat.le_div_iff_mul_le hk, Nat.succ_mul]
  omega

/-- Piece i is what stands at the k places from i * k on. -/
theorem pieces_getElem? {α : Type} {k : Nat} (hk : 0 < k) (xs : List α) {i : Nat} (inside : i * k < xs.length) :
    (pieces k xs)[i]? = some ((xs.drop (i * k)).take k) := by
  induction i generalizing xs with
  | zero =>
    rw [pieces_step hk (List.ne_nil_of_length_pos (by omega)), Nat.zero_mul, List.drop_zero, List.getElem?_cons_zero]
  | succ i ih =>
    rw [Nat.succ_mul] at inside ⊢
    rw [pieces_step hk (List.ne_nil_of_length_pos (by omega)), List.getElem?_cons_succ,
      ih _ (by rw [List.length_drop]; omega), List.drop_drop, Nat.add_comm k]

/-- Whole pieces followed by more are cut as the two parts are (41_encode.md R179). -/
theorem pieces_append {α : Type} {k : Nat} {xs : List α} (whole : k ∣ xs.length) (ys : List α) :
    pieces k (xs ++ ys) = pieces k xs ++ pieces k ys := by
  rcases Nat.eq_zero_or_pos k with rfl | hk
  · rw [List.length_eq_zero_iff.1 (Nat.eq_zero_of_zero_dvd whole), List.nil_append, pieces_nil, List.nil_append]
  induction xs using pieces_induction hk with
  | nil => rfl
  | step xs hx ih =>
    have first : k ≤ xs.length := Nat.le_of_dvd (List.length_pos_of_ne_nil hx) whole
    have rest : k ∣ (xs.drop k).length := by
      rw [List.length_drop]
      exact Nat.dvd_sub whole dvd_rfl
    rw [pieces_step hk (List.append_ne_nil_of_left_ne_nil hx ys), pieces_step hk hx,
      List.take_append_of_le_length first, List.drop_append_of_le_length first, ih rest, List.cons_append]

/-! ### The group of a chunk (41_encode.md R173, R174) -/

/-- The digit at place j of k is that of weight base^(k-1-j). -/
theorem radixDigits_getElem? (base v : Nat) {j k : Nat} (inside : j < k) :
    (radixDigits base k v)[j]? = some (v / base ^ (k - 1 - j) % base) := by
  induction k generalizing v with
  | zero => omega
  | succ k ih =>
    rw [radixDigits, Nat.add_sub_cancel]
    rcases Nat.lt_succ_iff_lt_or_eq.1 inside with before | rfl
    · rw [List.getElem?_append_left (by rwa [radixDigits_length]), ih _ before, Nat.div_div_eq_div_mul, ← pow_succ',
        show k - 1 - j + 1 = k - j by omega]
    · rw [List.getElem?_append_right (by rw [radixDigits_length]), radixDigits_length, Nat.sub_self,
        List.getElem?_cons_zero, pow_zero, Nat.div_one]

/-- Every byte of a group is the symbol of a digit. -/
theorem exists_romAlpha_of_mem_encodeChunk {sel : AlphaSel} {chunk : List Byte} {x : Byte}
    (hx : x ∈ encodeChunk sel chunk) : ∃ d ≤ 61, romAlpha sel d = x := by
  obtain ⟨d, hd, eq⟩ := List.mem_map.1 hx
  exact ⟨d, Nat.le_of_lt_succ (digits62_lt _ _ d hd), eq⟩

/-- The symbols of digits read back as the digits. -/
theorem groupValue_map_romAlpha (sel : AlphaSel) {ds : List Nat} (base62 : ∀ d ∈ ds, d < 62) :
    groupValue sel (ds.map (romAlpha sel)) = val62 ds := by
  have readBack : ∀ d ∈ ds, (romSym sel (romAlpha sel d)).getD 0 = d := fun d hd => by
    rw [romSym_romAlpha sel (Nat.le_of_lt_succ (base62 d hd)), Option.getD_some]
  rw [groupValue, List.map_map]
  exact congrArg val62 ((List.map_congr_left readBack).trans ds.map_id')

/-- A group spells its chunk's big-endian value, because the value fits the group. -/
theorem groupValue_encodeChunk (sel : AlphaSel) (chunk : List Byte) :
    groupValue sel (encodeChunk sel chunk) = beValue chunk := by
  rw [encodeChunk, groupValue_map_romAlpha sel (digits62_lt _ _), val62_digits62 (beValue_lt_pow_digits chunk)]

/-- A place that weighs more than the chunk's value holds the zero-symbol. -/
theorem encodeChunk_getElem?_padding (sel : AlphaSel) {chunk : List Byte} {j : Nat} (inside : j < digits chunk.length)
    (above : beValue chunk < 62 ^ (digits chunk.length - 1 - j)) :
    (encodeChunk sel chunk)[j]? = some (romAlpha sel 0) := by
  rw [encodeChunk, List.getElem?_map, digits62, radixDigits_getElem? 62 _ inside, Nat.div_eq_of_lt above, Nat.zero_mod,
    Option.map_some]

/-! ### The text of an input (41_encode.md R175, R178, R179) -/

/-- The text is the groups of the chunks in order. -/
theorem encodeText_eq_flatten (n : Nat) (sel : AlphaSel) (bytes : List Byte) :
    encodeText n sel bytes = ((pieces n bytes).map (encodeChunk sel)).flatten := List.flatMap_def

theorem mem_alphabet_of_mem_encodeText {n : Nat} {sel : AlphaSel} {bytes : List Byte} {x : Byte}
    (hx : x ∈ encodeText n sel bytes) : x ∈ codesOf (alphabetChars sel) := by
  obtain ⟨chunk, -, hchunk⟩ := List.mem_flatMap.1 hx
  obtain ⟨d, le, eq⟩ := exists_romAlpha_of_mem_encodeChunk hchunk
  rw [codesOf_alphabetChars]
  exact List.mem_map.2 ⟨d, List.mem_range.2 (Nat.lt_succ_of_le le), eq⟩

theorem encodeText_append {n : Nat} (sel : AlphaSel) {b1 : List Byte} (whole : n ∣ b1.length) (b2 : List Byte) :
    encodeText n sel (b1 ++ b2) = encodeText n sel b1 ++ encodeText n sel b2 := by
  rw [encodeText, pieces_append whole, List.flatMap_append, encodeText, encodeText]

/-! ### ENC_LEN rises with every byte (41_encode.md R177) -/

/-- ENC_LEN of q whole chunks and r bytes of the next. -/
theorem encLen_mul_add {n r : Nat} (q : Nat) (partialChunk : r < n) :
    encLen n (q * n + r) = q * dMax n + digits r := by
  have quotient : (q * n + r) / n = q := by
    rw [Nat.mul_comm, Nat.mul_add_div (by omega), Nat.div_eq_of_lt partialChunk, Nat.add_zero]
  rw [encLen, quotient, Nat.mul_add_mod_self_right, Nat.mod_eq_of_lt partialChunk]

/-- A longer input has a longer encoding: the first chunk is longer, or it is full in both and the rest is longer. -/
theorem encLen_lt {n l m : Nat} (hn : 1 ≤ n) (less : l < m) : encLen n l < encLen n m := by
  induction m using Nat.strong_induction_on generalizing l with
  | _ m ih =>
    rw [encLen_eq_add hn, encLen_eq_add (l := m) hn]
    rcases Nat.lt_or_ge l n with short | full
    · have first : digits (min n l) < digits (min n m) := digits_strictMono (by omega)
      rw [Nat.sub_eq_zero_of_le short.le, encLen_zero]
      omega
    · have rest : encLen n (l - n) < encLen n (m - n) := ih (m - n) (by omega) (by omega)
      rw [Nat.min_eq_left full, Nat.min_eq_left (full.trans less.le)]
      omega

/-! ### The two length checks (41_encode.md R171) -/

/-- ENC of an input that fits, in legacy mode of a multiple of 4 bytes, answers its text. -/
theorem encOutcome_text {s : State} (fits : s.inLen.toNat ≤ s.build.ibufBytes)
    (multiple : s.legacy4 = true → s.inLen.toNat % 4 = 0) :
    encOutcome s = .ok (.output (encodeText s.build.n s.alphaSel s.input)) := by
  rw [encOutcome, State.checkedInput_ok fits]
  exact if_neg fun ⟨legacy, rest⟩ => rest (multiple legacy)

/-- In legacy mode ENC of an input that fits and is no multiple of 4 bytes is an error. -/
theorem encOutcome_legacy {s : State} (legacy : s.legacy4 = true) (fits : s.inLen.toNat ≤ s.build.ibufBytes)
    (rest : s.inLen.toNat % 4 ≠ 0) : encOutcome s = .error (.invalidInputLength, 0) := by
  rw [encOutcome, State.checkedInput_ok fits]
  exact if_pos ⟨legacy, rest⟩

theorem encOutcome_tooLong {s : State} (long : s.build.ibufBytes < s.inLen.toNat) :
    encOutcome s = .error (.length, 0) := by
  rw [encOutcome, State.checkedInput_error long]

theorem decOutcome_tooLong {s : State} (long : s.build.ibufBytes < s.inLen.toNat) :
    decOutcome s = .error (.length, 0) := by
  rw [decOutcome, State.checkedInput_error long]

/-- The mode makes no difference to ENC of a multiple of 4 bytes. -/
theorem encOutcome_withLegacy4 {s : State} (multiple : s.inLen.toNat % 4 = 0) (mode : Bool) :
    encOutcome { s with legacy4 := mode } = encOutcome s := by
  rcases Nat.lt_or_ge s.build.ibufBytes s.inLen.toNat with long | fits
  · rw [encOutcome_tooLong long]
    exact encOutcome_tooLong long
  · rw [encOutcome_text fits fun _ => multiple]
    exact encOutcome_text fits fun _ => multiple

/-! ### What ENC commits (41_encode.md R171, R176) -/

/-- A commit neither reads nor writes the mode. -/
theorem State.commit_withLegacy4 (s : State) (o : CmdOutcome) (mode : Bool) :
    ({ s with legacy4 := mode } : State).commit o = { s.commit o with legacy4 := mode } := by
  rcases o with e | _ | out | v <;> rfl

/-- A command whose evaluation is an error raises it. -/
theorem exec_of_error {i : Instr} {s : State} {k : ErrKind} {info : Nat} (outcome : outcomeOf s i = .error (k, info)) :
    ∃ t, exec i s = .next t ∧ RaisedBy s t k info :=
  ⟨_, exec_eq_commit i s, outcome ▸ s.commit_error k info⟩

/-- ENC of a multiple of 4 bytes does the same in both modes, and keeps the mode. -/
theorem exec_enc_withLegacy4 {s t : State} (multiple : s.inLen.toNat % 4 = 0) {mode : Bool}
    (run : exec .enc { s with legacy4 := mode } = .next t) : exec .enc s = .next { t with legacy4 := s.legacy4 } := by
  have sameOutcome : outcomeOf { s with legacy4 := mode } .enc = outcomeOf s .enc :=
    encOutcome_withLegacy4 multiple mode
  rw [exec_eq_commit, sameOutcome, State.commit_withLegacy4] at run
  obtain rfl := Host.Outcome.next.inj run
  rw [exec_eq_commit, ← (s.commit_frame (outcomeOf s .enc)).legacy4]

/-- A commit that leaves ERR = 0 is that of an evaluation without error. -/
theorem outcomeOf_ok_of_err_eq_false {i : Instr} {s t : State} (run : exec i s = .next t) (clean : t.err = false) :
    ∃ e, outcomeOf s i = .ok e ∧ t = s.commit (.ok e) := by
  rw [exec_eq_commit] at run
  obtain rfl := Host.Outcome.next.inj run
  cases outcome : outcomeOf s i with
  | ok e => exact ⟨e, rfl, rfl⟩
  | error e =>
    rw [outcome, (s.commit_error e.1 e.2).err] at clean
    cases clean

/-- The only effect that ENC has is its text. -/
theorem eq_text_of_encOutcome_ok {s : State} {e : Effects} (ok : encOutcome s = .ok e) :
    e = .output (encodeText s.build.n s.alphaSel s.input) := by
  rcases Nat.lt_or_ge s.build.ibufBytes s.inLen.toNat with long | fits
  · cases (encOutcome_tooLong long).symm.trans ok
  · by_cases multiple : s.legacy4 = true → s.inLen.toNat % 4 = 0
    · cases (encOutcome_text fits multiple).symm.trans ok
      rfl
    · obtain ⟨legacy, rest⟩ := Classical.not_imp.1 multiple
      cases (encOutcome_legacy legacy fits rest).symm.trans ok

/-- ENC without error in a legal build: the text fits OBUF, so OUT_LEN holds its length (00_scope.md R10). -/
theorem outLen_of_exec_enc {s t : State} (legal : s.build.WellFormed) (run : exec .enc s = .next t)
    (clean : t.err = false) : t.outLen.toNat = encLen s.build.n s.inLen.toNat := by
  obtain ⟨e, outcome, rfl⟩ := outcomeOf_ok_of_err_eq_false run clean
  obtain rfl := eq_text_of_encOutcome_ok outcome
  have textFits : (encodeText s.build.n s.alphaSel s.input).length ≤ s.build.obufBytes := by
    have fits := outcomeOf_fits legal .enc
    rwa [outcome] at fits
  have small : s.build.obufBytes ≤ 65536 := by
    obtain ⟨-, -, ⟨-, small⟩, -⟩ := legal
    exact small
  rw [(s.commit_output _).outLen, BitVec.toNat_ofNat, Nat.mod_eq_of_lt (by omega), encodeText_length legal.n_pos,
    State.input_length]

/-! ### The statements on encoding -/

/-- Settles O14: past both length checks ENC commits its text, and the groups are made of symbols. -/
theorem encCommitsTheTextOfItsInput : Obligations.EncCommitsTheTextOfItsInput := by
  intro s fits multiple
  have outcome : outcomeOf s .enc = _ := encOutcome_text fits multiple
  exact ⟨_, exec_eq_commit .enc s, outcome ▸ s.commit_output _, fun _ => mem_alphabet_of_mem_encodeText⟩

/-- Settles O15: the outcomes of the length checks, and that ENC of a multiple of 4 bytes does not go by the mode. -/
theorem lengthChecksComeBeforeConversion : Obligations.LengthChecksComeBeforeConversion := by
  refine fun s => ⟨fun long => ⟨exec_of_error (encOutcome_tooLong long), exec_of_error (decOutcome_tooLong long)⟩,
    fun legacy fits rest => exec_of_error (encOutcome_legacy legacy fits rest), fun legacy multiple t run => ?general⟩
  case general =>
    have sameRun := exec_enc_withLegacy4 multiple run
    rwa [legacy] at sameRun

/-- Settles O16: the cut, its inverse, the number of chunks, and each chunk by its place. -/
theorem chunksAreCutFrontToBack : Obligations.ChunksAreCutFrontToBack := by
  refine fun n sel bytes hn =>
    ⟨encodeText_eq_flatten n sel bytes, pieces_flatten hn bytes, pieces_length hn bytes, fun i c found => ?_⟩
  obtain ⟨inside, -⟩ := List.getElem?_eq_some_iff.1 found
  have start := (lt_pieces_length_iff hn bytes i).1 inside
  have next := lt_pieces_length_iff hn bytes (i + 1)
  rw [Nat.succ_mul] at next
  obtain rfl := Option.some.inj (found.symm.trans (pieces_getElem? hn bytes start))
  rw [List.length_take, List.length_drop]
  exact ⟨rfl, by omega, by omega⟩

/-- Settles O18: width, symbols, value and padding of a group. -/
theorem encodedGroupHasFixedWidthAndValue : Obligations.EncodedGroupHasFixedWidthAndValue := by
  refine fun sel chunk => ⟨encodeChunk_length sel chunk, fun x hx => ?symbols, groupValue_encodeChunk sel chunk,
    fun j => encodeChunk_getElem?_padding sel⟩
  case symbols =>
    obtain ⟨d, le, rfl⟩ := exists_romAlpha_of_mem_encodeChunk hx
    rw [romSym_romAlpha sel le, Option.isSome_some]

/-- Settles O19: the length of the text, its values for N = 32, and OUT_LEN of an ENC without error. -/
theorem encodedLengthIsEncLen : Obligations.EncodedLengthIsEncLen :=
  ⟨fun _ sel bytes hn => encodeText_length hn sel bytes, digits_zero, rfl,
    fun _ _ legal _ run clean => outLen_of_exec_enc legal run clean⟩

/-- Settles O20: ENC_LEN is strictly increasing, by what DIGITS adds inside a chunk and at its end. -/
theorem encLenIsStrictlyIncreasing : Obligations.EncLenIsStrictlyIncreasing := by
  refine fun n hn => ⟨fun l m => encLen_lt hn, fun q r inside => ?insideChunk, fun q => ?boundary⟩
  case insideChunk =>
    have oneMore : digits r < digits (r + 1) := digits_lt_succ r
    rw [encLen_mul_add q inside, encLen_mul_add q (Nat.lt_of_succ_lt inside)]
    omega
  case boundary =>
    have full : encLen n (q * n + n) = (q + 1) * dMax n := by
      rw [← Nat.succ_mul]
      exact encLen_mul_add (q + 1) hn
    have before : encLen n (q * n + n - 1) = q * dMax n + digits (n - 1) := by
      rw [Nat.add_sub_assoc hn]
      exact encLen_mul_add q (Nat.sub_lt hn Nat.one_pos)
    have more : digits (n - 1) < dMax n := digits_strictMono (Nat.sub_lt hn Nat.one_pos)
    rw [full, before, Nat.succ_mul]
    omega

/-- Settles O21: the text is a map over the chunks, and whole chunks are cut apart from what follows. -/
theorem chunksAreEncodedIndependently : Obligations.ChunksAreEncodedIndependently :=
  fun n sel b1 b2 => ⟨encodeText_eq_flatten n sel b1, fun whole => encodeText_append sel whole b2⟩

end Sys2Proof.Machine

/-! # Decoding (42_decode.md R190 to R205)

Which groups are accepted and what they decode to (`decodeGroup_eq_ok_iff`), what a text and a state with a text then do
(`decodeText_eq_ok_iff`, `decodeText_error_of_first`), how many bytes come out (`flatMap_groupBytes_length`), that the
two conversions are inverse (`decodeText_encodeText`, `encodeText_of_decodeText`), and the statements as short uses of
them. -/

namespace Sys2Proof.Machine

/-! ### Pieces by their place (42_decode.md R192, R193) -/

/-- A sequence that fits one piece is that piece. -/
theorem pieces_eq_singleton {α : Type} {k : Nat} {xs : List α} (ne : xs ≠ []) (le : xs.length ≤ k) :
    pieces k xs = [xs] := by
  have hk : 0 < k := (List.length_pos_of_ne_nil ne).trans_le le
  rw [pieces_step hk ne, List.take_of_length_le le, List.drop_of_length_le le, pieces_nil]

/-- The first q pieces hold the first q * k elements. -/
theorem pieces_take_flatten {α : Type} {k : Nat} (hk : 0 < k) (q : Nat) (xs : List α) :
    ((pieces k xs).take q).flatten = xs.take (q * k) := by
  induction q generalizing xs with
  | zero => simp
  | succ q ih =>
    rcases eq_or_ne xs [] with rfl | ne
    · simp
    · rw [pieces_step hk ne, List.take_succ_cons, List.flatten_cons, ih, Nat.succ_mul, Nat.add_comm, List.take_add]

/-- Piece q starts at q * k. -/
theorem pieces_take_flatten_length {α : Type} {k q : Nat} (hk : 0 < k) {xs g : List α}
    (found : (pieces k xs)[q]? = some g) : ((pieces k xs).take q).flatten.length = q * k := by
  obtain ⟨inside, -⟩ := List.getElem?_eq_some_iff.1 found
  have start := (lt_pieces_length_iff hk xs q).1 inside
  rw [pieces_take_flatten hk, List.length_take, Nat.min_eq_left start.le]

/-- A piece is full, or it is what remains behind the full ones. -/
theorem pieces_getElem?_cases {α : Type} {k q : Nat} (hk : 0 < k) {xs g : List α}
    (found : (pieces k xs)[q]? = some g) :
    g.length = k ∨ (g.length = xs.length % k ∧ xs.length % k ≠ 0 ∧ q * k = xs.length - xs.length % k) := by
  obtain ⟨inside, -⟩ := List.getElem?_eq_some_iff.1 found
  have start := (lt_pieces_length_iff hk xs q).1 inside
  obtain rfl := Option.some.inj (found.symm.trans (pieces_getElem? hk xs start))
  rw [List.length_take, List.length_drop]
  rcases Nat.lt_or_ge (xs.length - q * k) k with short | full
  · have rest : xs.length % k = xs.length - q * k := calc
      xs.length % k = (q * k + (xs.length - q * k)) % k := by rw [Nat.add_sub_cancel' start.le]
      _ = xs.length - q * k := by rw [Nat.mul_add_mod_self_right, Nat.mod_eq_of_lt short]
    right
    omega
  · exact .inl (Nat.min_eq_left full)

/-- The lengths that pieces can have. -/
theorem length_of_mem_pieces {α : Type} {k : Nat} (hk : 0 < k) {xs g : List α} (mem : g ∈ pieces k xs) :
    1 ≤ g.length ∧ g.length ≤ k := by
  obtain ⟨q, found⟩ := List.mem_iff_getElem?.1 mem
  refine ⟨List.length_pos_of_ne_nil (ne_nil_of_mem_pieces hk xs g mem), ?_⟩
  rcases pieces_getElem?_cases hk found with full | ⟨rest, -⟩
  · exact full.le
  · exact rest.trans_le (Nat.mod_lt _ hk).le

/-- When a map makes pieces of j elements of the full pieces, and no longer or empty ones of the last, it makes the
pieces of what it puts out. -/
theorem pieces_flatMap {α β : Type} {j k : Nat} (hk : 0 < k) (f : List α → List β) (xs : List α)
    (full : ∀ g ∈ pieces k xs, g.length = k → (f g).length = j)
    (range : ∀ g ∈ pieces k xs, f g ≠ [] ∧ (f g).length ≤ j) :
    pieces j ((pieces k xs).flatMap f) = (pieces k xs).map f := by
  induction xs using pieces_induction hk with
  | nil => rfl
  | step xs hx ih =>
    rw [pieces_step hk hx] at full range ⊢
    obtain ⟨firstFull, restFull⟩ := List.forall_mem_cons.1 full
    obtain ⟨⟨firstNe, firstLe⟩, restRange⟩ := List.forall_mem_cons.1 range
    have first : pieces j (f (xs.take k)) = [f (xs.take k)] := pieces_eq_singleton firstNe firstLe
    rw [List.flatMap_cons, List.map_cons]
    rcases Nat.lt_or_ge xs.length k with short | long
    · rw [List.drop_of_length_le short.le, pieces_nil, List.flatMap_nil, List.append_nil, first, List.map_nil]
    · have whole : j ∣ (f (xs.take k)).length := by
        rw [firstFull (by rw [List.length_take, Nat.min_eq_left long])]
      rw [pieces_append whole, first, ih restFull restRange, List.singleton_append]

/-! ### Accepted groups (42_decode.md R193 to R196) -/

/-- The group of b bytes carries b bytes (40_tables.md R144). -/
theorem bytesOf_digits {n b : Nat} (pos : 1 ≤ b) (le : b ≤ n) : bytesOf n (digits b) = some b :=
  bytesOf_eq_some_iff.2 ⟨pos, le, rfl⟩

/-- The longest group carries a whole chunk. -/
theorem bytesOf_dMax {n : Nat} (hn : 1 ≤ n) : bytesOf n (dMax n) = some n := bytesOf_digits hn le_rfl

/-- No group is empty. -/
theorem bytesOf_zero (n : Nat) : bytesOf n 0 = none :=
  bytesOf_eq_none_iff.2 fun _ pos _ => digits_ne_of_gap pos (.inl (Nat.zero_le 1))

/-- A group that DEC accepts: its length is in the table, and its value fits the bytes. -/
def GroupAccepted (n : Nat) (sel : AlphaSel) (g : List Byte) : Prop :=
  ∃ b, bytesOf n g.length = some b ∧ groupValue sel g < 2 ^ (8 * b)

/-- What an accepted group decodes to. -/
def groupBytes (n : Nat) (sel : AlphaSel) (g : List Byte) : List Byte :=
  beBytes (groupValue sel g) ((bytesOf n g.length).getD 0)

@[simp] theorem groupBytes_length (n : Nat) (sel : AlphaSel) (g : List Byte) :
    (groupBytes n sel g).length = (bytesOf n g.length).getD 0 := beBytes_length _ _

theorem groupBytes_of_bytesOf {n b : Nat} (sel : AlphaSel) {g : List Byte} (found : bytesOf n g.length = some b) :
    groupBytes n sel g = beBytes (groupValue sel g) b := by
  rw [groupBytes, found, Option.getD_some]

theorem decodeGroup_overflow {n b : Nat} {sel : AlphaSel} {g : List Byte} (found : bytesOf n g.length = some b)
    (large : 2 ^ (8 * b) ≤ groupValue sel g) (p : Nat) : decodeGroup n sel p g = .error (.overflow, p) := by
  simp only [decodeGroup, found, if_pos large]

/-- The decode of a group answers exactly for the accepted ones. -/
theorem decodeGroup_eq_ok_iff {n : Nat} {sel : AlphaSel} {p : Nat} {g out : List Byte} :
    decodeGroup n sel p g = .ok out ↔ GroupAccepted n sel g ∧ groupBytes n sel g = out := by
  rcases decodeGroup_cases n sel p g with ⟨missing, eq⟩ | ⟨b, found, ⟨large, eq⟩ | ⟨small, eq⟩⟩
  · simp [eq, GroupAccepted, missing]
  · simp [eq, GroupAccepted, found, large]
  · simp [eq, GroupAccepted, found, small, groupBytes_of_bytesOf sel found]

theorem decodeGroup_of_accepted {n : Nat} {sel : AlphaSel} {g : List Byte} (accepted : GroupAccepted n sel g)
    (p : Nat) : decodeGroup n sel p g = .ok (groupBytes n sel g) := decodeGroup_eq_ok_iff.2 ⟨accepted, rfl⟩

/-- A group reports FRAMING exactly when its length is not in the table, and then at its start. -/
theorem decodeGroup_eq_framing_iff {n : Nat} {sel : AlphaSel} {p info : Nat} {g : List Byte} :
    decodeGroup n sel p g = .error (.framing, info) ↔ bytesOf n g.length = none ∧ p = info := by
  rcases decodeGroup_cases n sel p g with ⟨missing, eq⟩ | ⟨b, found, ⟨-, eq⟩ | ⟨-, eq⟩⟩
  · simp [eq, missing]
  · simp [eq, found]
  · simp [eq, found]

/-! ### Groups in order (42_decode.md R190, R197) -/

/-- Groups decode when every one is accepted, to their bytes in order. -/
theorem decodeGroups_eq_ok_iff {n : Nat} {sel : AlphaSel} {p : Nat} {gs : List (List Byte)} {out : List Byte} :
    decodeGroups n sel p gs = .ok out ↔ (∀ g ∈ gs, GroupAccepted n sel g) ∧ gs.flatMap (groupBytes n sel) = out := by
  induction gs generalizing p out with
  | nil => simp [decodeGroups]
  | cons g rest ih =>
    rw [List.forall_mem_cons, List.flatMap_cons]
    rcases decodeGroups_cons_cases n sel p g rest with ⟨e, bad, eq⟩ | ⟨a, good, ⟨e, bad, eq⟩ | ⟨more, tail, eq⟩⟩
    · have notAccepted : ¬ GroupAccepted n sel g := fun accepted => by
        cases (decodeGroup_of_accepted accepted p).symm.trans bad
      simp [eq, notAccepted]
    · have notAllAccepted : ¬ ∀ h ∈ rest, GroupAccepted n sel h := fun accepted => by
        cases (ih.2 ⟨accepted, rfl⟩).symm.trans bad
      simp [eq, notAllAccepted]
    · obtain ⟨accepted, rfl⟩ := decodeGroup_eq_ok_iff.1 good
      obtain ⟨restAccepted, rfl⟩ := ih.1 tail
      rw [eq, Except.ok.injEq]
      exact ⟨fun bytes => ⟨⟨accepted, restAccepted⟩, bytes⟩, And.right⟩

/-- Groups fail at the first group that is not accepted, whatever follows it (60_exceptions.md R238). -/
theorem decodeGroups_error_of_first {n q : Nat} {sel : AlphaSel} {p : Nat} {gs : List (List Byte)} {g : List Byte}
    {e : ErrKind × Nat} (found : gs[q]? = some g) (before : ∀ j h, j < q → gs[j]? = some h → GroupAccepted n sel h)
    (fails : decodeGroup n sel (p + (gs.take q).flatten.length) g = .error e) : decodeGroups n sel p gs = .error e := by
  induction q generalizing p gs with
  | zero =>
    cases gs with
    | nil => cases found
    | cons h rest =>
      obtain rfl := Option.some.inj found
      have first : decodeGroup n sel p h = .error e := fails
      simp only [decodeGroups, first]
  | succ q ih =>
    cases gs with
    | nil => cases found
    | cons h rest =>
      have accepted : GroupAccepted n sel h := before 0 h q.succ_pos rfl
      rw [List.take_succ_cons, List.flatten_cons, List.length_append, ← Nat.add_assoc] at fails
      have tail := ih found (fun j f less => before (j + 1) f (Nat.succ_lt_succ less)) fails
      simp only [decodeGroups, decodeGroup_of_accepted accepted p, tail]

/-- The error of groups that fail is that of one of them, at its place. -/
theorem exists_of_decodeGroups_error {n : Nat} {sel : AlphaSel} {p : Nat} {gs : List (List Byte)} {e : ErrKind × Nat}
    (fails : decodeGroups n sel p gs = .error e) : ∃ (q : Nat) (g : List Byte), gs[q]? = some g ∧
      decodeGroup n sel (p + (gs.take q).flatten.length) g = .error e := by
  induction gs generalizing p with
  | nil => cases fails
  | cons g rest ih =>
    rcases decodeGroups_cons_cases n sel p g rest with ⟨e', bad, eq⟩ | ⟨a, -, ⟨e', bad, eq⟩ | ⟨more, -, eq⟩⟩ <;>
      cases eq.symm.trans fails
    · exact ⟨0, g, rfl, bad⟩
    · obtain ⟨q, f, found, inRest⟩ := ih bad
      refine ⟨q + 1, f, found, ?_⟩
      rwa [List.take_succ_cons, List.flatten_cons, List.length_append, ← Nat.add_assoc]

/-! ### Texts (42_decode.md R191, R192) -/

/-- Every code of a string is in the alphabet (42_decode.md R191). -/
def ValidCodes (sel : AlphaSel) (codes : List Byte) : Prop := ∀ c ∈ codes, (romSym sel c).isSome = true

theorem firstForeign_eq_none_iff {sel : AlphaSel} {codes : List Byte} :
    firstForeign sel codes = none ↔ ValidCodes sel codes := by
  simp [firstForeign, ValidCodes, Option.isSome_iff_ne_none]

theorem decodeText_foreign {n i : Nat} {sel : AlphaSel} {codes : List Byte}
    (foreign : firstForeign sel codes = some i) : decodeText n sel codes = .error (.alphabetMismatch, i) := by
  rw [decodeText, foreign]

theorem decodeText_valid {sel : AlphaSel} {codes : List Byte} (valid : ValidCodes sel codes) (n : Nat) :
    decodeText n sel codes = decodeGroups n sel 0 (pieces (dMax n) codes) := by
  rw [decodeText, firstForeign_eq_none_iff.2 valid]

/-- A text decodes when its codes are valid and its groups accepted, to the groups' bytes in order. -/
theorem decodeText_eq_ok_iff {n : Nat} {sel : AlphaSel} {codes out : List Byte} :
    decodeText n sel codes = .ok out ↔ ValidCodes sel codes ∧ (∀ g ∈ pieces (dMax n) codes, GroupAccepted n sel g) ∧
      (pieces (dMax n) codes).flatMap (groupBytes n sel) = out := by
  by_cases valid : ValidCodes sel codes
  · rw [decodeText_valid valid, decodeGroups_eq_ok_iff, and_iff_right valid]
  · obtain ⟨i, foreign⟩ := Option.ne_none_iff_exists'.1 (mt firstForeign_eq_none_iff.1 valid)
    simp [decodeText_foreign foreign, valid]

/-- A text of valid codes fails at the first group that is not accepted, whose start is a multiple of D_MAX. -/
theorem decodeText_error_of_first {n q : Nat} {sel : AlphaSel} {codes g : List Byte} {e : ErrKind × Nat} (hn : 1 ≤ n)
    (valid : ValidCodes sel codes) (found : (pieces (dMax n) codes)[q]? = some g)
    (before : ∀ j h, j < q → (pieces (dMax n) codes)[j]? = some h → GroupAccepted n sel h)
    (fails : decodeGroup n sel (q * dMax n) g = .error e) : decodeText n sel codes = .error e := by
  rw [decodeText_valid valid]
  refine decodeGroups_error_of_first found before ?_
  rwa [Nat.zero_add, pieces_take_flatten_length (dMax_pos hn) found]

/-- A text reports FRAMING only for a last group whose length is not in the table, and at that group's start
(42_decode.md R198). -/
theorem framing_of_decodeText {n info : Nat} {sel : AlphaSel} {codes : List Byte} (hn : 1 ≤ n)
    (fails : decodeText n sel codes = .error (.framing, info)) : codes.length % dMax n ≠ 0 ∧
      bytesOf n (codes.length % dMax n) = none ∧ codes.length - codes.length % dMax n = info := by
  cases foreign : firstForeign sel codes with
  | some i => cases (decodeText_foreign foreign).symm.trans fails
  | none =>
    rw [decodeText_valid (firstForeign_eq_none_iff.1 foreign)] at fails
    obtain ⟨q, g, found, fails⟩ := exists_of_decodeGroups_error fails
    rw [Nat.zero_add, pieces_take_flatten_length (dMax_pos hn) found] at fails
    obtain ⟨missing, rfl⟩ := decodeGroup_eq_framing_iff.1 fails
    rcases pieces_getElem?_cases (dMax_pos hn) found with full | ⟨rest, ne, start⟩
    · rw [full, bytesOf_dMax hn] at missing
      cases missing
    · exact ⟨ne, rest ▸ missing, start.symm⟩

/-- A text of valid codes whose full groups are in range reports FRAMING when its last group's length is not in the
table (42_decode.md R198). -/
theorem decodeText_framing {n : Nat} {sel : AlphaSel} {codes : List Byte} (hn : 1 ≤ n) (valid : ValidCodes sel codes)
    (fullInRange : ∀ g ∈ pieces (dMax n) codes, g.length = dMax n → groupValue sel g < 2 ^ (8 * n))
    (rest : codes.length % dMax n ≠ 0) (missing : bytesOf n (codes.length % dMax n) = none) :
    decodeText n sel codes = .error (.framing, codes.length - codes.length % dMax n) := by
  have hk := dMax_pos hn
  have start : codes.length / dMax n * dMax n = codes.length - codes.length % dMax n :=
    Nat.eq_sub_of_add_eq (Nat.div_add_mod' _ _)
  have inside : codes.length / dMax n * dMax n < codes.length := by
    have := Nat.mod_le codes.length (dMax n)
    omega
  have found := pieces_getElem? hk codes inside
  rw [← start]
  refine decodeText_error_of_first hn valid found (fun j h before foundBefore => ?_)
    (decodeGroup_eq_framing_iff.2 ⟨?_, rfl⟩)
  · rcases pieces_getElem?_cases hk foundBefore with full | ⟨-, -, sameStart⟩
    · exact ⟨n, full ▸ bytesOf_dMax hn, fullInRange h (List.mem_of_getElem? foundBefore) full⟩
    · exact absurd (Nat.eq_of_mul_eq_mul_right hk (sameStart.trans start.symm)) before.ne
  · have lastLength : ((codes.drop (codes.length / dMax n * dMax n)).take (dMax n)).length = codes.length % dMax n := by
      rw [List.length_take, List.length_drop, start, Nat.sub_sub_self (Nat.mod_le _ _),
        Nat.min_eq_right (Nat.mod_lt _ hk).le]
    rw [lastLength, missing]

/-! ### DEC_LEN (42_decode.md R199) -/

/-- The first group takes at most D_MAX symbols, and the rest is decoded behind it. -/
theorem decLen_eq_add {n l : Nat} (hn : 1 ≤ n) :
    decLen n l = (bytesOf n (min (dMax n) l)).getD 0 + decLen n (l - dMax n) := by
  rcases Nat.lt_or_ge l (dMax n) with short | long
  · rw [Nat.min_eq_right short.le, Nat.sub_eq_zero_of_le short.le, decLen, Nat.div_eq_of_lt short,
      Nat.mod_eq_of_lt short, decLen, Nat.zero_div, Nat.zero_mod, bytesOf_zero, Option.getD_none, Nat.zero_mul,
      Nat.zero_add, Nat.add_zero]
  · obtain ⟨m, rfl⟩ := Nat.exists_eq_add_of_le' long
    rw [Nat.min_eq_left long, Nat.add_sub_cancel, bytesOf_dMax hn, Option.getD_some, decLen, decLen,
      Nat.add_div_right _ (dMax_pos hn), Nat.add_mod_right]
    ring

/-- Groups of L symbols decode to DEC_LEN(L) bytes. -/
theorem flatMap_groupBytes_length {n : Nat} (hn : 1 ≤ n) (sel : AlphaSel) (codes : List Byte) :
    ((pieces (dMax n) codes).flatMap (groupBytes n sel)).length = decLen n codes.length := by
  induction codes using pieces_induction (dMax_pos hn) with
  | nil => simp [decLen, bytesOf_zero]
  | step codes ne ih =>
    rw [pieces_step (dMax_pos hn) ne, List.flatMap_cons, List.length_append, ih, groupBytes_length, List.length_take,
      List.length_drop, ← decLen_eq_add hn]

theorem decodeText_length {n : Nat} (hn : 1 ≤ n) {sel : AlphaSel} {codes out : List Byte}
    (ok : decodeText n sel codes = .ok out) : out.length = decLen n codes.length := by
  obtain ⟨-, -, rfl⟩ := decodeText_eq_ok_iff.1 ok
  exact flatMap_groupBytes_length hn sel codes

/-- The last term of DEC_LEN is 0 when there is no shorter group. -/
theorem decLen_eq (n l : Nat) : decLen n l =
    l / dMax n * n + if l % dMax n = 0 then 0 else (bytesOf n (l % dMax n)).getD 0 := by
  rw [decLen]
  split
  next whole => rw [whole, bytesOf_zero, Option.getD_none]
  next => rfl

/-- A group decodes to at most 3/4 of its length. -/
theorem four_mul_bytesOf_le (n d : Nat) : 4 * (bytesOf n d).getD 0 ≤ 3 * d := by
  cases found : bytesOf n d with
  | none => simp
  | some b =>
    rw [Option.getD_some, ← digits_eq_of_bytesOf found]
    exact four_mul_le_three_mul_digits b

/-- A text decodes to at most 3/4 of its length. -/
theorem four_mul_decLen_le (n l : Nat) : 4 * decLen n l ≤ 3 * l := calc
  4 * decLen n l = l / dMax n * (4 * n) + 4 * (bytesOf n (l % dMax n)).getD 0 := by rw [decLen]; ring
  _ ≤ l / dMax n * (3 * dMax n) + 3 * (l % dMax n) :=
    Nat.add_le_add (Nat.mul_le_mul_left _ (four_mul_le_three_mul_digits n)) (four_mul_bytesOf_le n _)
  _ = 3 * (l / dMax n * dMax n + l % dMax n) := by ring
  _ = 3 * l := by rw [Nat.div_add_mod']

theorem decLen_le (n l : Nat) : decLen n l ≤ l := by
  have := four_mul_decLen_le n l
  omega

/-! ### The largest groups (42_decode.md R202, R203) -/

/-- k digits, each the largest of its base, spell base^k - 1. -/
theorem radixValue_replicate (d k : Nat) : radixValue (d + 1) (List.replicate k d) + 1 = (d + 1) ^ k := by
  induction k with
  | zero => rfl
  | succ k ih =>
    rw [List.replicate_succ', radixValue_concat, pow_succ, ← ih]
    ring

/-- The group of k digits 61 spells 62^k - 1. -/
theorem groupValue_replicate_last (sel : AlphaSel) (k : Nat) :
    groupValue sel (List.replicate k (romAlpha sel 61)) = 62 ^ k - 1 := by
  rw [← List.map_replicate, groupValue_map_romAlpha sel fun d hd => by rw [List.eq_of_mem_replicate hd]; norm_num]
  exact Nat.eq_sub_of_add_eq (radixValue_replicate 61 k)

/-- b bytes 0xFF spell 2^(8b) - 1. -/
theorem beValue_replicate_ones (b : Nat) : beValue (List.replicate b 0xFF#8) = 2 ^ (8 * b) - 1 := by
  rw [beValue, List.map_replicate, pow_mul]
  exact Nat.eq_sub_of_add_eq (radixValue_replicate 255 b)

/-- A power of 62 has the factor 31, so it is no power of 2, and a group has room above its bytes (R202). -/
theorem two_pow_lt_pow_digits {b : Nat} (pos : 1 ≤ b) : 2 ^ (8 * b) < 62 ^ digits b := by
  refine lt_of_le_of_ne (digits_spec b).1 fun eq => ?_
  have factor : 31 ∣ 2 ^ (8 * b) := by
    rw [eq]
    exact dvd_pow (by norm_num) (Nat.ne_of_gt (pos.trans (le_digits b)))
  have : 31 ∣ 2 := (by norm_num : Nat.Prime 31).dvd_of_dvd_pow factor
  omega

/-! ### The two conversions are inverse (42_decode.md R200, R204) -/

/-- The group of a chunk is accepted. -/
theorem groupAccepted_encodeChunk {n : Nat} (sel : AlphaSel) {chunk : List Byte} (pos : 1 ≤ chunk.length)
    (le : chunk.length ≤ n) : GroupAccepted n sel (encodeChunk sel chunk) := by
  refine ⟨chunk.length, ?_, ?_⟩
  · rw [encodeChunk_length, bytesOf_digits pos le]
  · rw [groupValue_encodeChunk]
    exact beValue_lt chunk

/-- The group of a chunk decodes to the chunk. -/
theorem groupBytes_encodeChunk {n : Nat} (sel : AlphaSel) {chunk : List Byte} (pos : 1 ≤ chunk.length)
    (le : chunk.length ≤ n) : groupBytes n sel (encodeChunk sel chunk) = chunk := by
  rw [groupBytes, encodeChunk_length, bytesOf_digits pos le, Option.getD_some, groupValue_encodeChunk, beBytes_beValue]

/-- The symbols of a group are those of its digits. -/
theorem map_romAlpha_digits {sel : AlphaSel} {g : List Byte} (valid : ValidCodes sel g) :
    (digits62 (groupValue sel g) g.length).map (romAlpha sel) = g := by
  have symbol : ∀ c ∈ g, (romSym sel c).getD 0 < 62 ∧ romAlpha sel ((romSym sel c).getD 0) = c := fun c hc => by
    obtain ⟨k, digit⟩ := Option.isSome_iff_exists.1 (valid c hc)
    obtain ⟨le, eq⟩ := romSym_eq_some_iff.1 digit
    rw [digit, Option.getD_some]
    exact ⟨Nat.lt_succ_of_le le, eq⟩
  have readBack := radixDigits_radixValue (g.map fun c => (romSym sel c).getD 0)
    (List.forall_mem_map.2 fun c hc => (symbol c hc).1)
  rw [List.length_map] at readBack
  rw [digits62, groupValue, val62, readBack, List.map_map]
  exact (List.map_congr_left fun c hc => (symbol c hc).2).trans g.map_id'

/-- An accepted group is the group of what it decodes to. -/
theorem encodeChunk_groupBytes {n : Nat} {sel : AlphaSel} {g : List Byte} (valid : ValidCodes sel g)
    (accepted : GroupAccepted n sel g) : encodeChunk sel (groupBytes n sel g) = g := by
  obtain ⟨b, found, inRange⟩ := accepted
  rw [groupBytes_of_bytesOf sel found, encodeChunk, beValue_beBytes inRange, beBytes_length,
    digits_eq_of_bytesOf found, map_romAlpha_digits valid]

theorem validCodes_encodeText (n : Nat) (sel : AlphaSel) (bytes : List Byte) :
    ValidCodes sel (encodeText n sel bytes) := fun x hx => by
  obtain ⟨chunk, -, hchunk⟩ := List.mem_flatMap.1 hx
  obtain ⟨d, le, rfl⟩ := exists_romAlpha_of_mem_encodeChunk hchunk
  rw [romSym_romAlpha sel le, Option.isSome_some]

/-- The text of an input is cut where its chunks end. -/
theorem pieces_encodeText {n : Nat} (hn : 1 ≤ n) (sel : AlphaSel) (bytes : List Byte) :
    pieces (dMax n) (encodeText n sel bytes) = (pieces n bytes).map (encodeChunk sel) := by
  refine pieces_flatMap hn (encodeChunk sel) bytes (fun c _ full => ?_) fun c mem => ?_
  · rw [encodeChunk_length, full, dMax]
  · obtain ⟨pos, le⟩ := length_of_mem_pieces hn mem
    have width := encodeChunk_length sel c
    exact ⟨List.ne_nil_of_length_pos (width ▸ pos.trans (le_digits _)), width ▸ digits_mono le⟩

/-- The text of an input decodes to the input (42_decode.md R200). -/
theorem decodeText_encodeText {n : Nat} (hn : 1 ≤ n) (sel : AlphaSel) (bytes : List Byte) :
    decodeText n sel (encodeText n sel bytes) = .ok bytes := by
  refine decodeText_eq_ok_iff.2 ⟨validCodes_encodeText n sel bytes, ?_, ?_⟩ <;> rw [pieces_encodeText hn]
  · refine List.forall_mem_map.2 fun c mem => ?_
    obtain ⟨pos, le⟩ := length_of_mem_pieces hn mem
    exact groupAccepted_encodeChunk sel pos le
  · have chunkBack : ∀ c ∈ pieces n bytes, groupBytes n sel (encodeChunk sel c) = c := fun c mem => by
      obtain ⟨pos, le⟩ := length_of_mem_pieces hn mem
      exact groupBytes_encodeChunk sel pos le
    rw [List.flatMap_map, List.flatMap_congr chunkBack, List.flatMap_id', pieces_flatten hn]

/-- The bytes of accepted groups are cut where the groups end. -/
theorem pieces_flatMap_groupBytes {n : Nat} (hn : 1 ≤ n) {sel : AlphaSel} {codes : List Byte}
    (accepted : ∀ g ∈ pieces (dMax n) codes, GroupAccepted n sel g) :
    pieces n ((pieces (dMax n) codes).flatMap (groupBytes n sel)) =
      (pieces (dMax n) codes).map (groupBytes n sel) := by
  refine pieces_flatMap (dMax_pos hn) (groupBytes n sel) codes (fun g _ full => ?_) fun g mem => ?_
  · rw [groupBytes_length, full, bytesOf_dMax hn, Option.getD_some]
  · obtain ⟨b, found, -⟩ := accepted g mem
    obtain ⟨pos, le, -⟩ := bytesOf_eq_some_iff.1 found
    have width : (groupBytes n sel g).length = b := by rw [groupBytes_length, found, Option.getD_some]
    exact ⟨List.ne_nil_of_length_pos (width ▸ pos), width ▸ le⟩

/-- A text that decodes is the text of what it decodes to (42_decode.md R204). -/
theorem encodeText_of_decodeText {n : Nat} (hn : 1 ≤ n) {sel : AlphaSel} {codes out : List Byte}
    (ok : decodeText n sel codes = .ok out) : encodeText n sel out = codes := by
  obtain ⟨valid, accepted, rfl⟩ := decodeText_eq_ok_iff.1 ok
  have whole := pieces_flatten (dMax_pos hn) codes
  have groupBack : ∀ g ∈ pieces (dMax n) codes, encodeChunk sel (groupBytes n sel g) = g := fun g mem =>
    encodeChunk_groupBytes (fun c hc => valid c (whole ▸ List.mem_flatten_of_mem mem hc)) (accepted g mem)
  rw [encodeText, pieces_flatMap_groupBytes hn accepted, List.flatMap_map, List.flatMap_congr groupBack,
    List.flatMap_id', whole]

/-! ### What DEC commits (42_decode.md R190, R199, R201) -/

theorem decOutcome_of_text_ok {s : State} {out : List Byte} (fits : s.inLen.toNat ≤ s.build.ibufBytes)
    (ok : decodeText s.build.n s.alphaSel s.input = .ok out) : decOutcome s = .ok (.output out) := by
  simp only [decOutcome, State.checkedInput_ok fits, ok]

theorem decOutcome_of_text_error {s : State} {e : ErrKind × Nat} (fits : s.inLen.toNat ≤ s.build.ibufBytes)
    (fails : decodeText s.build.n s.alphaSel s.input = .error e) : decOutcome s = .error e := by
  simp only [decOutcome, State.checkedInput_ok fits, fails]

/-- The only effect that DEC has is the bytes of an input that fits. -/
theorem exists_text_of_decOutcome_ok {s : State} {e : Effects} (ok : decOutcome s = .ok e) :
    s.inLen.toNat ≤ s.build.ibufBytes ∧
      ∃ out, decodeText s.build.n s.alphaSel s.input = .ok out ∧ e = .output out := by
  rcases Nat.lt_or_ge s.build.ibufBytes s.inLen.toNat with long | fits
  · cases (decOutcome_tooLong long).symm.trans ok
  · cases text : decodeText s.build.n s.alphaSel s.input with
    | error e' => cases (decOutcome_of_text_error fits text).symm.trans ok
    | ok out =>
      cases (decOutcome_of_text_ok fits text).symm.trans ok
      exact ⟨fits, out, rfl, rfl⟩

/-- DEC of an input that fits raises the error of its text. -/
theorem exec_dec_of_text_error {s : State} {k : ErrKind} {info : Nat} (fits : s.inLen.toNat ≤ s.build.ibufBytes)
    (fails : decodeText s.build.n s.alphaSel s.input = .error (k, info)) :
    ∃ t, exec .dec s = .next t ∧ RaisedBy s t k info :=
  exec_of_error (decOutcome_of_text_error fits fails)

/-- DEC of an input that fits writes the bytes of its text. -/
theorem exec_dec_of_text_ok {s : State} {out : List Byte} (fits : s.inLen.toNat ≤ s.build.ibufBytes)
    (ok : decodeText s.build.n s.alphaSel s.input = .ok out) : ∃ t, exec .dec s = .next t ∧ WroteOutput s t out := by
  have outcome : outcomeOf s .dec = .ok (.output out) := decOutcome_of_text_ok fits ok
  exact ⟨_, exec_eq_commit .dec s, outcome ▸ s.commit_output out⟩

/-- ENC of an input that fits writes its text in general mode. -/
theorem exec_enc_general {s : State} (fits : s.inLen.toNat ≤ s.build.ibufBytes) (general : s.legacy4 = false) :
    ∃ t, exec .enc s = .next t ∧ WroteOutput s t (encodeText s.build.n s.alphaSel s.input) := by
  have outcome : outcomeOf s .enc = _ := encOutcome_text fits fun legacy => by simp [general] at legacy
  exact ⟨_, exec_eq_commit .enc s, outcome ▸ s.commit_output _⟩

/-- A commit that turns ERR on is that of an evaluation with an error. -/
theorem outcomeOf_error_of_err_eq_true {i : Instr} {s t : State} (clean : s.err = false) (run : exec i s = .next t)
    (err : t.err = true) : ∃ k info, outcomeOf s i = .error (k, info) ∧ RaisedBy s t k info := by
  rw [exec_eq_commit] at run
  obtain rfl := Host.Outcome.next.inj run
  cases outcome : outcomeOf s i with
  | error e => exact ⟨e.1, e.2, rfl, s.commit_error e.1 e.2⟩
  | ok e =>
    have kept : (s.commit (.ok e)).err = s.err := by cases e <;> rfl
    rw [outcome, kept, clean] at err
    cases err

/-- The codes of the error kinds are different (60_exceptions.md R230). -/
theorem ErrKind.code_injective {j k : ErrKind} (eq : j.code = k.code) : j = k := by
  revert eq
  cases j <;> cases k <;> decide

/-- In a legal build OUT_LEN holds the length of every output that fits OBUF (00_scope.md R10). -/
theorem WroteOutput.outLen_toNat {s t : State} {out : List Byte} (wrote : WroteOutput s t out)
    (legal : s.build.WellFormed) (fits : out.length ≤ s.build.obufBytes) : t.outLen.toNat = out.length := by
  obtain ⟨-, -, ⟨-, small⟩, -⟩ := legal
  rw [wrote.outLen, BitVec.toNat_ofNat, Nat.mod_eq_of_lt (by omega)]

/-- A command that ends without error with an output: what it wrote, and its length in OUT_LEN. -/
theorem wrote_of_outcomeOf_output {i : Instr} {s t : State} {out : List Byte} (legal : s.build.WellFormed)
    (run : exec i s = .next t) (outcome : outcomeOf s i = .ok (.output out)) :
    WroteOutput s t out ∧ t.outLen.toNat = out.length := by
  have fits := outcomeOf_fits legal i
  rw [exec_eq_commit, outcome] at run
  rw [outcome] at fits
  obtain rfl := Host.Outcome.next.inj run
  exact ⟨s.commit_output out, (s.commit_output out).outLen_toNat legal fits⟩

/-- DEC without error in a legal build: its input fits and decodes, and the bytes are written. -/
theorem wrote_of_exec_dec {s t : State} (legal : s.build.WellFormed) (run : exec .dec s = .next t)
    (clean : t.err = false) : s.inLen.toNat ≤ s.build.ibufBytes ∧
      ∃ out, decodeText s.build.n s.alphaSel s.input = .ok out ∧ WroteOutput s t out ∧ t.outLen.toNat = out.length := by
  obtain ⟨e, outcome, -⟩ := outcomeOf_ok_of_err_eq_false run clean
  obtain ⟨fits, out, text, rfl⟩ := exists_text_of_decOutcome_ok outcome
  exact ⟨fits, out, text, wrote_of_outcomeOf_output legal run outcome⟩

/-- ENC without error in a legal build: the text is written. -/
theorem wrote_of_exec_enc {s t : State} (legal : s.build.WellFormed) (run : exec .enc s = .next t)
    (clean : t.err = false) : WroteOutput s t (encodeText s.build.n s.alphaSel s.input) ∧
      t.outLen.toNat = (encodeText s.build.n s.alphaSel s.input).length := by
  obtain ⟨e, outcome, -⟩ := outcomeOf_ok_of_err_eq_false run clean
  obtain rfl := eq_text_of_encOutcome_ok outcome
  exact wrote_of_outcomeOf_output legal run outcome

/-! ### Inputs -/

/-- The codes of an input are valid when each one is. -/
theorem State.validCodes_input {s : State}
    (valid : ∀ i, i < s.inLen.toNat → (romSym s.alphaSel (s.ibufAt i)).isSome = true) :
    ValidCodes s.alphaSel s.input := by
  simpa [ValidCodes, State.input] using valid

theorem State.input_eq_nil {s : State} (empty : s.inLen = 0#32) : s.input = [] := by
  simp [State.input, empty]

/-- The input of a state into which an output was copied is that output. -/
theorem WroteOutput.input_of_copy {s t u : State} {out : List Byte} (wrote : WroteOutput s t out)
    (length : t.outLen.toNat = out.length) (inLen : u.inLen = t.outLen)
    (copy : ∀ i, i < t.outLen.toNat → u.ibufAt i = t.obufAt i) : u.input = out := by
  refine List.ext_getElem (by rw [State.input_length, inLen, length]) fun i inside inOut => ?_
  rw [State.input_getElem, copy i (length ▸ inOut), wrote.written i inOut]

/-- An output that is the input of another state: OUT_LEN and OBUF are that state's IN_LEN and IBUF. -/
theorem WroteOutput.reads_input {s u v : State} (wrote : WroteOutput u v s.input) :
    v.outLen = s.inLen ∧ ∀ i, i < s.inLen.toNat → v.obufAt i = s.ibufAt i := by
  refine ⟨?_, fun i inside => ?_⟩
  · rw [wrote.outLen, State.input_length, BitVec.ofNat_toNat, BitVec.setWidth_eq]
  · have inInput : i < s.input.length := by rwa [State.input_length]
    rw [wrote.written i inInput, State.input_getElem]

/-- The same output of two commits is the same list of bytes. -/
theorem WroteOutput.output_eq {s s' t t' : State} {out out' : List Byte} (wrote : WroteOutput s t out)
    (wrote' : WroteOutput s' t' out') (length : t.outLen.toNat = out.length) (length' : t'.outLen.toNat = out'.length)
    (outLen : t'.outLen = t.outLen) (same : ∀ i, i < t.outLen.toNat → t'.obufAt i = t.obufAt i) : out' = out := by
  refine List.ext_getElem (by rw [← length', outLen, length]) fun i inside' inside => ?_
  rw [← wrote.written i inside, ← wrote'.written i inside', same i (length ▸ inside)]

/-- Two states with the same input hold the same bytes below the same IN_LEN. -/
theorem State.input_inj {s s' : State} (eq : s'.input = s.input) :
    s'.inLen = s.inLen ∧ ∀ i, i < s.inLen.toNat → s'.ibufAt i = s.ibufAt i := by
  have length : s'.inLen.toNat = s.inLen.toNat := by rw [← State.input_length, eq, State.input_length]
  refine ⟨BitVec.eq_of_toNat_eq length, fun i inside => ?_⟩
  have inInput : i < s.input.length := by rwa [State.input_length]
  rw [← s.input_getElem i inInput, ← s'.input_getElem i (by rwa [eq])]
  simp only [eq]

/-! ### The statements on decoding -/

/-- Settles O23: every group is accepted, so the text decodes to the groups' bytes. -/
theorem decCommitsTheBytesOfItsGroups : Obligations.DecCommitsTheBytesOfItsGroups :=
  fun _ fits valid accepted =>
    exec_dec_of_text_ok fits (decodeText_eq_ok_iff.2 ⟨State.validCodes_input valid, accepted, rfl⟩)

/-- Settles O24: the search for a foreign code finds the least index. -/
theorem decReportsTheFirstForeignCode : Obligations.DecReportsTheFirstForeignCode := by
  intro s i fits inside foreign before
  refine exec_dec_of_text_error fits (decodeText_foreign ?_)
  rw [firstForeign, List.findIdx?_eq_some_iff_getElem]
  refine ⟨by rwa [State.input_length], ?_, fun j less => ?_⟩
  · rw [State.input_getElem, foreign, Option.isNone_none]
  · rw [State.input_getElem, Bool.not_eq_true, Option.isNone_eq_false_iff]
    exact before j less

/-- Settles O25: the only group that can have no table length is the last one, and the table for N = 32 is
evaluated. -/
theorem decFramingDependsOnlyOnLength : Obligations.DecFramingDependsOnlyOnLength := by
  refine fun s hn fits => ⟨fun t clean run err framing => ?only, fun valid fullInRange rest missing => ?raised, ?table⟩
  case only =>
    obtain ⟨k, info, outcome, raised⟩ := outcomeOf_error_of_err_eq_true clean run err
    obtain rfl : k = .framing := ErrKind.code_injective (raised.errCode.symm.trans framing)
    cases text : decodeText s.build.n s.alphaSel s.input with
    | ok out => cases (decOutcome_of_text_ok fits text).symm.trans outcome
    | error e =>
      obtain rfl : e = (.framing, info) := Except.error.inj ((decOutcome_of_text_error fits text).symm.trans outcome)
      obtain ⟨rest, missing, start⟩ := framing_of_decodeText hn text
      rw [State.input_length] at rest missing start
      refine ⟨rest, missing, ?_⟩
      rw [raised.errInfo, BitVec.toNat_ofNat, start]
      exact Nat.mod_eq_of_lt (by omega)
  case raised =>
    rw [← State.input_length] at rest missing ⊢
    exact exec_dec_of_text_error fits (decodeText_framing hn (State.validCodes_input valid) fullInRange rest missing)
  case table =>
    intro reference
    rw [reference]
    decide

/-- Settles O26: every group before group q is accepted, and group q overflows. -/
theorem decReportsTheFirstOverflowingGroup : Obligations.DecReportsTheFirstOverflowingGroup := by
  intro s q g b fits valid found table large before
  obtain ⟨pos, le, -⟩ := bytesOf_eq_some_iff.1 table
  exact exec_dec_of_text_error fits (decodeText_error_of_first (pos.trans le) (State.validCodes_input valid) found
    before (decodeGroup_overflow table large _))

/-- Settles O27: the groups decode to DEC_LEN bytes, each to at most 3/4 of its length. -/
theorem decodedLengthIsDecLen : Obligations.DecodedLengthIsDecLen := by
  refine ⟨fun s t legal _ run clean => ?_, fun n l _ => ?_, fun b l legal fits => ?_⟩
  · obtain ⟨-, out, text, -, length⟩ := wrote_of_exec_dec legal run clean
    have bytes : t.outLen.toNat = decLen s.build.n s.inLen.toNat := by
      rw [length, decodeText_length legal.n_pos text, State.input_length]
    exact ⟨bytes.trans (decLen_eq _ _), bytes⟩
  · rw [Nat.le_div_iff_mul_le (by norm_num), Nat.mul_comm]
    exact four_mul_decLen_le n l
  · have buffers : b.ibufBytes ≤ b.obufBytes := (le_encLen _ legal.n_pos).trans legal.encLen_ibufBytes_le
    have shorter := decLen_le b.n l
    exact ⟨shorter, buffers, shorter.trans (fits.trans buffers)⟩

/-- Settles O29: 62^k - 1 is above the group's bytes, and as the whole input the group is the first one. -/
theorem allMaximumGroupsOverflow : Obligations.AllMaximumGroupsOverflow := by
  intro s k b table
  obtain ⟨pos, le, rfl⟩ := bytesOf_eq_some_iff.1 table
  have value := groupValue_replicate_last s.alphaSel (digits b)
  have large : 2 ^ (8 * b) ≤ 62 ^ digits b - 1 := Nat.le_sub_one_of_lt (two_pow_lt_pow_digits pos)
  refine ⟨value, large, fun fits input => ?_⟩
  have length : s.input.length = digits b := by rw [input, List.length_replicate]
  have valid : ValidCodes s.alphaSel s.input := fun c hc => by
    rw [input] at hc
    rw [List.eq_of_mem_replicate hc, romSym_romAlpha _ le_rfl, Option.isSome_some]
  have oneGroup : pieces (dMax s.build.n) s.input = [s.input] :=
    pieces_eq_singleton (List.ne_nil_of_length_pos (length ▸ pos.trans (le_digits b))) (length ▸ digits_mono le)
  have overflow : decodeGroup s.build.n s.alphaSel (0 * dMax s.build.n) s.input = .error (.overflow, 0) := by
    rw [Nat.zero_mul]
    exact decodeGroup_overflow (length ▸ table) (by rwa [input, value]) 0
  refine exec_dec_of_text_error (by rwa [← State.input_length, length]) ?_
  exact decodeText_error_of_first (pos.trans le) valid (by rw [oneGroup]; rfl) (fun j h less => by omega) overflow

/-- Settles O30: 2^(8b) - 1 is the value of b bytes 0xFF, 2^(8b) is the value of a group too, and the four strings of
the rule are evaluated. -/
theorem overflowBoundaryIsTheEncodingOfAllOnes : Obligations.OverflowBoundaryIsTheEncodingOfAllOnes := by
  refine ⟨fun n sel p k b table => ?_, by decide, by decide, by decide, by decide⟩
  obtain ⟨pos, le, rfl⟩ := bytesOf_eq_some_iff.1 table
  have ones : (List.replicate b 0xFF#8).length = b := List.length_replicate
  have onesPos : 1 ≤ (List.replicate b 0xFF#8).length := ones.symm ▸ pos
  have onesLe : (List.replicate b 0xFF#8).length ≤ n := ones.symm ▸ le
  have next : groupValue sel ((digits62 (2 ^ (8 * b)) (digits b)).map (romAlpha sel)) = 2 ^ (8 * b) := by
    rw [groupValue_map_romAlpha sel (digits62_lt _ _), val62_digits62 (two_pow_lt_pow_digits pos)]
  refine ⟨fun g width _ => ?boundary, ?width, ?value, ?decoded, next, ?overflow⟩
  case boundary =>
    rw [← Nat.lt_iff_le_pred (Nat.two_pow_pos _)]
    simp [decodeGroup_eq_ok_iff, GroupAccepted, width, table]
  case width => rw [encodeChunk_length, ones]
  case value => rw [groupValue_encodeChunk, beValue_replicate_ones]
  case decoded =>
    rw [decodeGroup_of_accepted (groupAccepted_encodeChunk sel onesPos onesLe),
      groupBytes_encodeChunk sel onesPos onesLe]
  case overflow => exact decodeGroup_overflow (by rwa [List.length_map, digits62_length]) next.ge p

/-- Settles O32: the copied text decodes to the input, and its bytes are written where they were read. -/
theorem decOfEncGivesTheInputBack : Obligations.DecOfEncGivesTheInputBack := by
  intro s t u legal _ run clean build alphaSel uClean inLen fits copy
  obtain ⟨wrote, length⟩ := wrote_of_exec_enc legal run clean
  have input : u.input = encodeText s.build.n s.alphaSel s.input := wrote.input_of_copy length inLen copy
  have text : decodeText u.build.n u.alphaSel u.input = .ok s.input := by
    rw [build, alphaSel, input]
    exact decodeText_encodeText legal.n_pos s.alphaSel s.input
  obtain ⟨v, runDec, wroteDec⟩ := exec_dec_of_text_ok (by rwa [inLen, build]) text
  exact ⟨v, runDec, wroteDec.record.err.trans uClean, wroteDec.reads_input⟩

/-- Settles O33: the text of the bytes is the accepted string, which the bytes therefore fix. -/
theorem encOfDecGivesTheStringBack : Obligations.EncOfDecGivesTheStringBack := by
  refine ⟨fun s t u legal _ run clean build alphaSel general uClean inLen copy => ?back,
    fun s s' t t' legal build alphaSel _ _ run run' clean clean' outLen same => ?unique⟩
  case back =>
    obtain ⟨fits, out, text, wrote, length⟩ := wrote_of_exec_dec legal run clean
    have input : u.input = out := wrote.input_of_copy length inLen copy
    have uFits : u.inLen.toNat ≤ u.build.ibufBytes := by
      rw [inLen, length, build, decodeText_length legal.n_pos text, State.input_length]
      exact (decLen_le _ _).trans fits
    obtain ⟨v, runEnc, wroteEnc⟩ := exec_enc_general uFits general
    rw [build, alphaSel, input, encodeText_of_decodeText legal.n_pos text] at wroteEnc
    exact ⟨v, runEnc, wroteEnc.record.err.trans uClean, wroteEnc.reads_input⟩
  case unique =>
    obtain ⟨-, out, text, wrote, length⟩ := wrote_of_exec_dec legal run clean
    obtain ⟨-, out', text', wrote', length'⟩ := wrote_of_exec_dec (build ▸ legal) run' clean'
    obtain rfl := wrote.output_eq wrote' length length' outLen same
    rw [build, alphaSel] at text'
    exact State.input_inj <| calc
      s'.input = encodeText s.build.n s.alphaSel out' := (encodeText_of_decodeText legal.n_pos text').symm
      _ = s.input := encodeText_of_decodeText legal.n_pos text

/-- Settles O28: neither the evaluation of DEC nor a commit goes by the mode. -/
theorem decIgnoresLegacyMode : Obligations.DecIgnoresLegacyMode := by
  intro s t mode run
  have sameOutcome : outcomeOf { s with legacy4 := mode } .dec = outcomeOf s .dec := rfl
  rw [exec_eq_commit] at run ⊢
  obtain rfl := Host.Outcome.next.inj run
  rw [sameOutcome, State.commit_withLegacy4]

/-- Settles O31: the empty input has the empty text in both directions, and its commit writes no byte. -/
theorem emptyInputGivesEmptyOutput : Obligations.EmptyInputGivesEmptyOutput := by
  intro s empty
  have input := State.input_eq_nil empty
  have zero : s.inLen.toNat = 0 := by rw [empty, BitVec.toNat_zero]
  have fits : s.inLen.toNat ≤ s.build.ibufBytes := zero ▸ Nat.zero_le _
  have dec : outcomeOf s .dec = .ok (.output []) :=
    decOutcome_of_text_ok fits (by rw [input]; rfl)
  have enc : outcomeOf s .enc = .ok (.output []) := by
    rw [outcomeOf, encOutcome_text fits fun _ => zero ▸ Nat.zero_mod 4, input]
    rfl
  rw [exec_eq_commit, exec_eq_commit, dec, enc]
  exact ⟨rfl, rfl⟩

end Sys2Proof.Machine

/-! # Control (43_control.md R220)

NOP is the commit without effect, so all that its end shows beyond BUSY and DONE is what its accept left. -/

namespace Sys2Proof.Machine

/-! ### The word of NOP (30_encoding.md R111, R116) -/

/-- With the operation code 0, the word below IMM16 is 0. -/
theorem formatC_zero (imm : Imm16) : formatC 0#4 imm = imm ++ 0#16 :=
  BitVec.append_assoc.trans (BitVec.cast_eq _ _)

/-- The commands of the operation codes 0 to 2 use no immediate, and the decoder refuses one (30_encoding.md R116). -/
theorem decode_formatC_superfluous {op : BitVec 4} {imm : Imm16} (low : op.toNat ≤ 2) (superfluous : imm ≠ 0#16) :
    decode (formatC op imm) = .error .immediateNotZero := by
  obtain ⟨opEq, rsvEq, immEq⟩ := formatC_fields op imm
  have defined : ¬ 7 ≤ op.toNat := by omega
  rw [decode, opEq, rsvEq, immEq, if_neg defined, if_neg (not_not.2 rfl)]
  obtain code | code | code : op.toNat = 0 ∨ op.toNat = 1 ∨ op.toNat = 2 := by omega
  all_goals
    rw [code]
    exact if_pos superfluous

/-! ### The end of NOP (43_control.md R220) -/

/-- NOP only ends: BUSY falls and DONE rises. -/
theorem exec_nop (s : State) : exec .nop s = .next s.finish :=
  exec_eq_commit .nop s

/-- STATUS after an accepted command that ended with nothing to report: DONE alone (10_state.md R36). -/
theorem State.statusWord_finish_accept {s : State} (w : Word) (wign : s.wign = false) :
    (s.accept w).finish.statusWord = 0x00000002#32 := by
  simp [State.statusWord, wign]

/-- IRQ after any completion is the enable (60_exceptions.md R241). -/
@[simp] theorem State.irq_finish (s : State) : s.finish.irq = s.ie :=
  Bool.and_true s.ie

/-- Settles O9: the accept cleared the error record, and the commit of NOP adds only the completion. -/
theorem nopCommitsWithoutEffect : Obligations.NopCommitsWithoutEffect := by
  intro s
  refine ⟨formatC_zero 0#16, exec_nop s, fun imm superfluous => ?illegal, ?accepted⟩
  case illegal =>
    rw [← formatC_zero]
    exact decode_formatC_superfluous (by decide) superfluous
  case accepted =>
    -- `accept` gives the record its zeros, and neither it nor `finish` writes OUT_LEN, RESULT or OBUF.
    exact ⟨_, exec_nop _, rfl, rfl, rfl, rfl, rfl, fun _ => rfl, State.irq_finish _, State.statusWord_finish_accept _⟩

end Sys2Proof.Machine

/-! # Exceptions and the command lifecycle (60_exceptions.md R236 to R249)

A command is one commit of one evaluation, so its errors are those of the evaluation (`outcomeOf_error_info`), and a
retry goes by what the evaluation reads (`SameInputs.outcomeOf_eq`). The lifecycle around the commit goes by the cases
of a step: IRQ rises with DONE or with IE (`step_irq_rises`), and each step uses up one event
(`step_build_schedule`). -/

namespace Sys2Proof.Machine

/-! ### The accept and the core's turn (60_exceptions.md R236, R240, R249) -/

/-- An idle core keeps all state (60_exceptions.md R249). -/
theorem coreTurn_idle {s : State} (idle : s.busy = false) : coreTurn s = .next s :=
  if_neg (idle ▸ Bool.false_ne_true)

/-- The core's turn with a command in flight is its meaning (60_exceptions.md R236). -/
theorem coreTurn_decoded {s : State} {i : Instr} (busy : s.busy = true) (decoded : decode s.cmd = .ok i) :
    coreTurn s = exec i s := by
  simp only [coreTurn, busy, if_true, commitStep, decoded]

/-- `coreNext` gives the core the next turn and leaves the rest as it is (20_memory.md R91). -/
theorem step_coreNext (s : State) : step s.coreNext = coreTurn s := by
  cases next : s.schedule with
  | nil =>
    have same : s.coreNext = s := by simp only [State.coreNext, next]
    rw [same, step_nil next]
  | cons e rest =>
    have turnFirst : s.coreNext = { s with schedule := .core :: s.schedule } := by simp only [State.coreNext, next]
    rw [turnFirst, step_core rfl]

/-- The state that `withFetchWord` makes is the accept of the word, before the core's turn (60_exceptions.md R240). -/
theorem State.withFetchWord_toNat (s : State) (w : Word) : s.withFetchWord 32 w.toNat = (s.accept w).coreNext := by
  rw [State.withFetchWord, State.issueWord, Nat.mod_eq_of_lt w.isLt, BitVec.ofNat_toNat, BitVec.setWidth_eq]

/-! ### The information of an error (60_exceptions.md R237) -/

/-- A lookup without an entry has no index to report. -/
theorem lookupOutcome_error_info {entry : Option Nat} {j k : ErrKind} {info : Nat}
    (error : lookupOutcome entry j = .error (k, info)) : info = 0 := by
  cases entry with
  | none => cases error; rfl
  | some v => cases error

/-- The two length errors of ENC have no index to report (41_encode.md R171). -/
theorem encOutcome_error_info {s : State} {k : ErrKind} {info : Nat} (error : encOutcome s = .error (k, info)) :
    info = 0 := by
  rcases Nat.lt_or_ge s.build.ibufBytes s.inLen.toNat with long | fits
  · cases (encOutcome_tooLong long).symm.trans error
    rfl
  · by_cases multiple : s.legacy4 = true → s.inLen.toNat % 4 = 0
    · cases (encOutcome_text fits multiple).symm.trans error
    · obtain ⟨legacy, rest⟩ := Classical.not_imp.1 multiple
      cases (encOutcome_legacy legacy fits rest).symm.trans error
      rfl

/-- Only DEC reports an index. -/
theorem outcomeOf_error_info {s : State} {i : Instr} {k : ErrKind} {info : Nat} (other : i ≠ .dec)
    (error : outcomeOf s i = .error (k, info)) : info = 0 := by
  cases i with
  | nop => cases error
  | enc => exact encOutcome_error_info error
  | dec => exact (other rfl).elim
  | lutd n => exact lookupOutcome_error_info error
  | lutb d => exact lookupOutcome_error_info error
  | s2d c =>
    rw [outcomeOf] at error
    split at error
    · cases error; rfl
    · exact lookupOutcome_error_info error
  | d2s k => exact lookupOutcome_error_info error

/-! ### A retry (60_exceptions.md R244) -/

/-- The same IN_LEN and the same bytes below it are the same input. -/
theorem SameInputs.input_eq {s u : State} (same : SameInputs s u) : u.input = s.input := by
  rw [State.input, same.inLen]
  exact List.map_congr_left fun i mem => same.ibuf i (List.mem_range.1 mem)

/-- What an evaluation reads is the build, CFG, IN_LEN and the input. -/
theorem SameInputs.outcomeOf_eq {s u : State} (same : SameInputs s u) (i : Instr) : outcomeOf u i = outcomeOf s i := by
  have checked : u.checkedInput = s.checkedInput := by
    rw [State.checkedInput, same.build, same.inLen, same.input_eq, State.checkedInput]
  cases i with
  | nop => rfl
  | enc => simp only [outcomeOf, encOutcome, checked, same.build, same.alphaSel, same.legacy4, same.inLen]
  | dec => simp only [outcomeOf, decOutcome, checked, same.build, same.alphaSel]
  | lutd n => rw [outcomeOf, same.build, outcomeOf]
  | lutb d => rw [outcomeOf, same.build, outcomeOf]
  | s2d c => rw [outcomeOf, same.alphaSel, outcomeOf]
  | d2s k => rw [outcomeOf, same.alphaSel, outcomeOf]

/-- A commit without error leaves the error record as the accept left it (60_exceptions.md R236; log entry 15). -/
theorem State.commit_ok_record (s : State) (e : Effects) : SameErrorRecord s (s.commit (.ok e)) := by
  cases e with
  | nothing => exact ⟨rfl, rfl, rfl⟩
  | output out => exact (s.commit_output out).record
  | scalar v => exact (s.commit_scalar v).record

/-- The commits of one evaluation leave the same error record where it was the same before. -/
theorem SameErrorRecord.commit {s u : State} (same : SameErrorRecord s u) (o : CmdOutcome) :
    SameErrorRecord (s.commit o) (u.commit o) := by
  cases o with
  | error e => exact ⟨rfl, rfl, rfl⟩
  | ok e =>
    have first := s.commit_ok_record e
    have second := u.commit_ok_record e
    exact ⟨by rw [second.err, same.err, first.err], by rw [second.errCode, same.errCode, first.errCode],
      by rw [second.errInfo, same.errInfo, first.errInfo]⟩

/-- The commits of one output agree on OUT_LEN and on the bytes of OBUF below it. -/
theorem WroteOutput.agree {s t u v : State} {out : List Byte} (wrote : WroteOutput s t out)
    (wrote' : WroteOutput u v out) :
    t.outLen = v.outLen ∧ ∀ j, j < t.outLen.toNat → t.obufAt j = v.obufAt j := by
  refine ⟨wrote.outLen.trans wrote'.outLen.symm, fun j below => ?_⟩
  have inside : j < out.length := by
    rw [wrote.outLen, BitVec.toNat_ofNat] at below
    exact below.trans_le (Nat.mod_le _ _)
  rw [wrote.written j inside, wrote'.written j inside]

/-! ### What every step keeps or uses up, and who enables the interrupt -/

/-- No host write changes the build or what the environment does next (00_scope.md R8). -/
theorem State.writeTarget_keeps (s : State) (lanes : List Byte) (tg : Target) :
    (s.writeTarget lanes tg).build = s.build ∧ (s.writeTarget lanes tg).schedule = s.schedule := by
  rcases s.writeTarget_cases lanes tg with e | ⟨-, e, -⟩ | ⟨-, -, e⟩ | ⟨-, -, e⟩ | ⟨-, -, e⟩ | ⟨-, e⟩ | ⟨-, e⟩ |
    ⟨-, i, -, e⟩ <;> rw [e]
  case inr.inr.inr.inr.inr.inl =>
    unfold State.writeCtrl
    split <;> exact ⟨rfl, rfl⟩
  all_goals exact ⟨rfl, rfl⟩

/-- A step uses up one event and keeps the build (20_memory.md R91, 00_scope.md R8). -/
theorem step_build_schedule {s t : State} (hstep : step s = .next t) :
    t.build = s.build ∧ t.schedule = s.schedule.tail := by
  have turnTail {rest : List Event} (turn : s.CoreTurnNext rest) : rest = s.schedule.tail := by
    rcases turn with ⟨next, rfl⟩ | next <;> rw [next] <;> rfl
  cases step_cases hstep with
  | idle rest turn _ eq => exact eq ▸ ⟨rfl, turnTail turn⟩
  | commit rest turn _ o _ eq =>
    have frame := State.commit_frame { s with schedule := rest } o
    exact eq ▸ ⟨frame.build, frame.schedule.trans (turnTail turn)⟩
  | powerOn rest next eq => exact eq ▸ ⟨rfl, next ▸ rfl⟩
  | respond a rest next r eq => exact eq ▸ ⟨rfl, next ▸ rfl⟩
  | write off lanes rest next tg _ eq =>
    obtain ⟨build, schedule⟩ := State.writeTarget_keeps { s with schedule := rest } lanes tg
    exact eq ▸ ⟨build, schedule.trans (next ▸ rfl)⟩

/-- A commit keeps IE: the completion is the interrupt's source, not its enable (60_exceptions.md R241). -/
theorem step_ie_of_commit {s t : State} {rest : List Event} (hstep : step s = .next t) (busy : s.busy = true)
    (turn : s.CoreTurnNext rest) : t.ie = s.ie := by
  obtain ⟨o, commits⟩ := coreTurn_busy (s := { s with schedule := rest }) busy
  obtain rfl := step_unique hstep ((step_coreTurn turn).trans commits)
  exact (State.commit_frame { s with schedule := rest } o).ie

/-- A host write that turns IE on is a write of CTRL with bit 0 set (10_state.md R35). -/
theorem State.writeTarget_enables {s : State} {lanes : List Byte} {tg : Target} (disabled : s.ie = false)
    (enabled : (s.writeTarget lanes tg).ie = true) : tg = .reg .ctrl ∧ (wordOfLanes lanes).getLsbD 0 = true := by
  rcases s.writeTarget_cases lanes tg with e | ⟨-, e, -⟩ | ⟨-, -, e⟩ | ⟨-, -, e⟩ | ⟨-, -, e⟩ | ⟨ctrl, e⟩ | ⟨-, e⟩ |
    ⟨-, i, -, e⟩
  case inr.inr.inr.inr.inr.inl =>
    refine ⟨ctrl, ?_⟩
    rw [e] at enabled
    cases srst : (wordOfLanes lanes).getLsbD 31 with
    | true => rw [State.writeCtrl_srst _ srst] at enabled; cases enabled
    | false => rwa [State.writeCtrl_ie _ srst] at enabled
  all_goals
    rw [e] at enabled
    cases disabled.symm.trans enabled

/-- A step that turns IE on is a host write of CTRL with bit 0 set (10_state.md R35). -/
theorem step_enables {s t : State} (hstep : step s = .next t) (disabled : s.ie = false) (enabled : t.ie = true) :
    ∃ lanes rest, s.schedule = .host (.write (s.build.base + 0x14) lanes) :: rest ∧
      (wordOfLanes lanes).getLsbD 0 = true := by
  cases step_cases hstep with
  | idle rest _ _ eq =>
    subst eq
    cases disabled.symm.trans enabled
  | commit rest turn busy =>
    have kept := step_ie_of_commit hstep busy turn
    cases disabled.symm.trans (kept.symm.trans enabled)
  | powerOn rest _ eq =>
    subst eq
    cases enabled
  | respond a rest _ r eq =>
    subst eq
    cases disabled.symm.trans enabled
  | write off lanes rest next tg lands eq =>
    subst eq
    obtain ⟨rfl, bit⟩ := State.writeTarget_enables (s := { s with schedule := rest }) disabled enabled
    obtain ⟨rfl, -⟩ := target_eq_reg lands
    exact ⟨lanes, rest, next, bit⟩

/-- IRQ is low without DONE (60_exceptions.md R241). -/
theorem State.irq_of_done {s : State} (pending : s.done = false) : s.irq = false := by
  rw [State.irq, pending, Bool.and_false]

/-- IRQ is low without IE (60_exceptions.md R241). -/
theorem State.irq_of_ie {s : State} (disabled : s.ie = false) : s.irq = false := by
  rw [State.irq, disabled, Bool.false_and]

/-- IRQ rises by a rise of DONE, which is a commit, or by a rise of IE, which is a write of CTRL (60_exceptions.md
R241). -/
theorem step_irq_rises {s t : State} (hstep : step s = .next t) (low : s.irq = false) (high : t.irq = true) :
    (s.busy = true ∧ t.busy = false ∧ s.ie = true ∧ ∃ rest, s.CoreTurnNext rest) ∨
    (s.done = true ∧ s.ie = false ∧ ∃ lanes rest,
      s.schedule = .host (.write (s.build.base + 0x14) lanes) :: rest ∧ (wordOfLanes lanes).getLsbD 0 = true) := by
  obtain ⟨enabled, finished⟩ := (Bool.and_eq_true _ _).mp high
  cases done : s.done with
  | false =>
    obtain ⟨-, -, -, -, -, -, rises, -⟩ := busyAndDoneChangeOnlyByTheLifecycle s t hstep
    obtain ⟨inFlight, idle, rest, turn⟩ := rises done finished
    exact .inl ⟨inFlight, idle, step_ie_of_commit hstep inFlight turn ▸ enabled, rest, turn⟩
  | true =>
    have disabled : s.ie = false := by rwa [State.irq, done, Bool.and_true] at low
    exact .inr ⟨rfl, disabled, step_enables hstep disabled enabled⟩

/-! ### Every accepted command ends (70_reset_and_hazards.md R268) -/

/-- A step of a schedule inside the window answers a next state, whose schedule is inside the window too. -/
theorem State.ScheduleInWindow.exists_step {s : State} (inWindow : s.ScheduleInWindow) :
    ∃ t, step s = .next t ∧ t.ScheduleInWindow := by
  obtain ⟨-, goesOn⟩ := onlyPlatformAddressesStopTheMachine s
  obtain ⟨t, hstep⟩ := goesOn fun a rest next => by
    have inside : (windowOffset s.build a.addr).isSome = true := inWindow (.host a) (by simp [next])
    obtain ⟨off, found⟩ := Option.isSome_iff_exists.1 inside
    obtain ⟨addr, below⟩ := windowOffset_eq_some found
    simp only [windowBytes] at below
    omega
  obtain ⟨build, schedule⟩ := step_build_schedule hstep
  refine ⟨t, hstep, fun e mem => ?_⟩
  rw [schedule] at mem
  exact build ▸ inWindow e (List.mem_of_mem_tail mem)

/-- A step with nothing scheduled is the commit of the command in flight. -/
theorem step_busy_of_nil {s t : State} (hstep : step s = .next t) (busy : s.busy = true) (empty : s.schedule = []) :
    t.busy = false := by
  obtain ⟨-, commits, -⟩ := busyAndDoneChangeOnlyByTheLifecycle s t hstep
  exact (commits [] (.inl ⟨empty, rfl⟩) busy).1

/-- Each step uses up an event, and when none is left the core has its turn. -/
theorem exists_run_not_busy (events : List Event) {s : State} (next : s.schedule = events) (busy : s.busy = true)
    (inWindow : s.ScheduleInWindow) : ∃ k t, k ≤ events.length + 1 ∧ core.run k s = .next t ∧ t.busy = false := by
  induction events generalizing s with
  | nil =>
    obtain ⟨t, hstep, -⟩ := inWindow.exists_step
    exact ⟨1, t, le_rfl, run_succ hstep 0, step_busy_of_nil hstep busy next⟩
  | cons e rest ih =>
    obtain ⟨t, hstep, stays⟩ := inWindow.exists_step
    cases stillBusy : t.busy with
    | false => exact ⟨1, t, by omega, run_succ hstep 0, stillBusy⟩
    | true =>
      obtain ⟨-, schedule⟩ := step_build_schedule hstep
      obtain ⟨k, u, bound, run, idle⟩ := ih (schedule.trans (next ▸ rfl)) stillBusy stays
      exact ⟨k + 1, u, Nat.succ_le_succ bound, (run_succ hstep k).trans run, idle⟩

/-! ### The statements on exceptions -/

/-- Settles O7: an error commit is that of an evaluation with an error, and only DEC's has an index. -/
theorem errorCommitWritesOnlyTheErrorRecord : Obligations.ErrorCommitWritesOnlyTheErrorRecord := by
  intro i s t run clean err
  obtain ⟨k, info, error, raised⟩ := outcomeOf_error_of_err_eq_true clean run err
  exact ⟨k, info, raised, fun other => outcomeOf_error_info other error⟩

/-- Settles O34: both states commit one evaluation, and what they show of it goes by what the command can answer. -/
theorem retryGivesTheSameOutcome : Obligations.RetryGivesTheSameOutcome := by
  intro i s u inputs record
  refine ⟨_, _, exec_eq_commit i s, exec_eq_commit i u, ?_⟩
  rw [inputs.outcomeOf_eq i]
  refine ⟨record.commit _, ?_⟩
  have kept (e : Effects) (clean : s.err = false) : (s.commit (.ok e)).err ≠ true := by
    rw [(s.commit_ok_record e).err, clean]
    exact Bool.false_ne_true
  cases outcomeOf_cases s i with
  | error e eq =>
    have raised := s.commit_error e.1 e.2
    rw [eq]
    exact ⟨fun _ _ => ⟨rfl, rfl⟩, fun _ clean => absurd raised.err (clean ▸ Bool.false_ne_true)⟩
  | nothing command eq =>
    rw [eq]
    exact ⟨fun clean err => (kept _ clean err).elim,
      fun _ _ => ⟨by simp [command], fun notNop => (notNop command).elim⟩⟩
  | output command out eq =>
    rw [eq]
    exact ⟨fun clean err => (kept _ clean err).elim,
      fun _ _ => ⟨fun _ => (s.commit_output out).agree (u.commit_output out),
        fun _ notEnc notDec => (command.elim notEnc notDec).elim⟩⟩
  | scalar command v eq =>
    rw [eq]
    exact ⟨fun clean err => (kept _ clean err).elim,
      fun _ _ => ⟨fun moves => (command (.inr moves)).elim, fun _ _ _ => rfl⟩⟩

/-- Settles O52: IRQ rises by a rise of one of its two inputs, and each listed event leaves one of them 0. -/
theorem irqIsRaisedOnlyByCompletion : Obligations.IrqIsRaisedOnlyByCompletion := by
  refine ⟨fun _ => rfl, rfl, fun s t => step_irq_rises, fun s t w rest hstep =>
    ⟨fun next bit => ?status, fun next idle => ?accept, fun next off => ?ctrl, fun next => ?powerOn⟩⟩
  case status =>
    obtain ⟨-, -, -, clears, -⟩ := busyAndDoneChangeOnlyByTheLifecycle s t hstep
    exact State.irq_of_done (clears w rest next bit)
  case accept =>
    obtain ⟨accepts, -⟩ := busyAndDoneChangeOnlyByTheLifecycle s t hstep
    exact State.irq_of_done (accepts w rest next idle).2
  case ctrl =>
    obtain rfl := step_unique hstep (step_writeReg .ctrl next)
    refine State.irq_of_ie ?_
    rw [State.respond_ie, State.writeReg]
    cases srst : w.getLsbD 31 with
    | true => rw [State.writeCtrl_srst _ srst]; rfl
    | false => exact State.writeCtrl_ie _ srst ▸ off.resolve_right (srst ▸ Bool.false_ne_true)
  case powerOn =>
    obtain rfl := step_unique hstep (step_powerOn next)
    rfl

/-- Settles O57, by induction on the schedule. -/
theorem everyAcceptedCommandEnds : Obligations.EveryAcceptedCommandEnds :=
  fun s => exists_run_not_busy s.schedule rfl

/-- Settles O5: the two cases of the core's turn, and the accept before one. -/
theorem stepCommitsTheDecodedCommand : Obligations.StepCommitsTheDecodedCommand := by
  refine ⟨fun s rest i busy turn decoded => ?_, fun s rest idle turn => ?_, fun s w i decoded => ?_⟩
  · exact (step_coreTurn turn).trans (coreTurn_decoded busy decoded)
  · exact (step_coreTurn turn).trans (coreTurn_idle idle)
  · rw [State.withFetchWord_toNat, step_coreNext]
    exact coreTurn_decoded rfl decoded

/-- Settles O6: the accept clears DONE, and with it IRQ. -/
theorem hostWriteOfCmdAcceptsTheWord : Obligations.HostWriteOfCmdAcceptsTheWord :=
  fun _ _ _ next =>
    ⟨fun idle => ⟨_, step_writeCmd_idle idle next, State.irq_of_done rfl, rfl⟩,
      fun busy => step_writeReg_busy (r := .cmd) (by simp) busy next⟩

end Sys2Proof.Machine

/-! # The busy window and the soft reset (70_reset_and_hazards.md R262, R263)

No step that leaves BUSY = 1 changes an input of the command in flight (`step_keeps_inputs`): while BUSY = 1 a host write
is ignored or reaches STATUS or CTRL alone. The other clauses are the host accesses of the layers above. -/

namespace Sys2Proof.Machine

/-! ### The inputs of the command in flight (70_reset_and_hazards.md R262) -/

/-- `t` holds the command word of `s` and all that a command can read: IN_LEN, CFG and every byte of IBUF. -/
def InputsKept (s t : State) : Prop :=
  t.cmd = s.cmd ∧ t.inLen = s.inLen ∧ t.alphaSel = s.alphaSel ∧ t.legacy4 = s.legacy4 ∧ SameIbuf s t

/-- A host write during the busy window that does not end it by a soft reset keeps the inputs. -/
theorem State.writeTarget_keeps_inputs {s : State} {lanes : List Byte} {tg : Target} (inFlight : s.busy = true)
    (stillBusy : (s.writeTarget lanes tg).busy = true) : InputsKept s (s.writeTarget lanes tg) := by
  rcases s.writeTarget_cases lanes tg with e | ⟨-, e, -⟩ | ⟨idle, -⟩ | ⟨idle, -⟩ | ⟨idle, -⟩ | ⟨-, e⟩ | ⟨-, e⟩ |
    ⟨idle, -⟩
  case inr.inr.inr.inr.inr.inl =>
    rw [e] at stillBusy ⊢
    cases srst : (wordOfLanes lanes).getLsbD 31 with
    | true => rw [State.writeCtrl_srst _ srst] at stillBusy; cases stillBusy
    | false => rw [State.writeCtrl_ie _ srst]; exact ⟨rfl, rfl, rfl, rfl, fun _ => rfl⟩
  case inl | inr.inl | inr.inr.inr.inr.inr.inr.inl => rw [e]; exact ⟨rfl, rfl, rfl, rfl, fun _ => rfl⟩
  all_goals cases idle.symm.trans inFlight

/-- A step that leaves BUSY = 1 keeps the inputs, so the commit sees those of the accept. -/
theorem step_keeps_inputs {s t : State} (hstep : step s = .next t) (inFlight : s.busy = true)
    (stillBusy : t.busy = true) : InputsKept s t := by
  cases step_cases hstep with
  | idle _ _ idle => cases idle.symm.trans inFlight
  | commit rest _ _ o _ eq =>
    obtain ⟨ended, -⟩ := State.commit_flags { s with schedule := rest } o
    subst eq
    cases ended.symm.trans stillBusy
  | powerOn _ _ eq =>
    subst eq
    cases stillBusy
  | respond _ _ _ _ eq => exact eq ▸ ⟨rfl, rfl, rfl, rfl, fun _ => rfl⟩
  | write _ _ rest _ _ _ eq =>
    subst eq
    exact State.writeTarget_keeps_inputs (s := { s with schedule := rest }) inFlight stillBusy

/-! ### Allowed reads -/

/-- An allowed access is inside the window (20_memory.md R80 to R82). -/
theorem AllowedAccess.lt_windowBytes {b : Build} {off width : Nat} (wf : b.WellFormed)
    (allowed : AllowedAccess b off width) : off < windowBytes := by
  rcases allowed with ⟨mapped, -⟩ | ⟨i, rfl, access⟩ | ⟨i, rfl, access⟩
  · exact mapped.trans (by decide)
  · exact (target_ibuf wf access).2
  · exact (target_obuf wf access).2

/-- An allowed read answers data and changes nothing else, whatever BUSY is (20_memory.md R89). -/
theorem step_read_allowed {s : State} {rest : List Event} {off width : Nat} (wf : s.build.WellFormed)
    (allowed : AllowedAccess s.build off width) (next : s.schedule = .host (.read (s.build.base + off) width) :: rest) :
    ∃ lanes, step s = .next { s with schedule := rest, response := .data lanes } := by
  obtain ⟨tg, lands⟩ := (allowedAccess_iff wf).1 allowed
  exact ⟨_, step_read next (allowed.lt_windowBytes wf) lands⟩

/-! ### The statements on the busy window and the soft reset -/

/-- Settles O49: the ignored writes are those of `step_writeReg_busy` and `step_writeIbuf_busy`, the honoured ones those of
O42 and O44, the ignored read-only ones those of O48, and no step that leaves BUSY = 1 changes an input. -/
theorem busyWindowFreezesTheInputs : Obligations.BusyWindowFreezesTheInputs := by
  intro s rest wf inFlight
  obtain ⟨obufIgnores, readOnlyIgnores⟩ := readOnlyTargetsIgnoreWrites s rest wf
  refine ⟨fun off w frozen next => ?frozenReg, fun i lanes access => step_writeIbuf_busy wf access inFlight,
    fun w => step_writeReg .status, fun w next => ?ctrl, readOnlyIgnores, obufIgnores, step_readReg .outLen,
    step_readReg .result, fun i width access => step_readObuf wf access, fun off width => step_read_allowed wf,
    fun a t _ hstep stillBusy => step_keeps_inputs hstep inFlight stillBusy⟩
  case frozenReg =>
    have frozen : off ∈ ([.cfg, .cmd, .inLen] : List Reg).map regOffset := frozen
    obtain ⟨r, ignores, rfl⟩ := List.mem_map.1 frozen
    exact step_writeReg_busy (by simpa using ignores) inFlight next
  case ctrl =>
    obtain ⟨-, -, honoured⟩ := ctrlWritesIeOrResets s rest w
    obtain ⟨enables, resets⟩ := honoured next
    refine ⟨enables, fun srst => ?_⟩
    obtain ⟨t, hstep, reset, -⟩ := resets srst
    exact ⟨t, hstep, reset⟩

/-- Settles O50: the soft reset writes registers alone, whose reset values end BUSY and IRQ, and no buffer. -/
theorem softResetKeepsTheBuffers : Obligations.SoftResetKeepsTheBuffers := by
  intro s rest w srst next
  rw [← wordOfLanes_lanesOfWord w] at srst
  exact ⟨_, step_writeCtrl_srst rfl srst next, (State.softReset_registersReset _).respond .ack, rfl,
    State.irq_of_done rfl, fun _ => rfl, fun _ => rfl, rfl, rfl⟩

end Sys2Proof.Machine

/-! # S2D of an operand that no decode gives (40_tables.md R156)

The decoder refuses such an operand (30_encoding.md R117), so no step evaluates the command; the model gives `exec` the
error of its word (log entry 11). -/

namespace Sys2Proof.Machine

/-- S2D of an operand that is no 8-bit code finds its high byte set, before any lookup (30_encoding.md R117). -/
theorem outcomeOf_s2d_large {c : Imm16} (large : 256 ≤ c.toNat) (s : State) :
    outcomeOf s (.s2d c) = .error (.illegalCommand, 0) := by
  have high : symbolHighField c ≠ 0#8 := fun eq => large.not_gt ((symbolHighField_eq_zero_iff c).1 eq)
  rw [outcomeOf, if_pos high]

/-- Settles O60: the outcome is that error, and a command whose outcome is an error commits it. -/
theorem s2dMeaningOfAnUndecodableOperandIsIllegal : Obligations.S2dMeaningOfAnUndecodableOperandIsIllegal :=
  fun _ s large => exec_of_error (outcomeOf_s2d_large large s)

end Sys2Proof.Machine
